-- ==== Sys2Proof/Word.lean ====
section
/-! DEFINITION. The word of the machine (00_scope.md R10, R13): registers, memory words,
instructions and addresses are 16-bit patterns; memory cells are kept as bytes. -/

namespace Sys2Proof

/-- A 16-bit bit pattern: a register, a memory word, an instruction or a word address (R10, R13). -/
abbrev Word := BitVec 16

/-- One of the two halves in which the model keeps a memory word (log entry 2). -/
abbrev Byte := BitVec 8

end Sys2Proof
end

