-- ==== Sys2Proof/Config.lean ====
section
/-! DEFINITION. The five open parameters of 00_scope.md R11, which "the model takes as arguments". -/

namespace Sys2Proof

/-- The two JSR target formulas of R11 and R225 (decision D11). -/
inductive JsrTarget where
  /-- `sext_11(raw11) << 4`. -/
  | abs
  /-- `(pc & 0x8000) | (zext_11(raw11) << 4)`. -/
  | page
deriving DecidableEq, Repr

/-- One value for each parameter of R11. The source settles none of them; no instruction writes
one, and a statement about every state is a statement about every value of each (DESIGN CHOICE,
log entry 1). -/
structure Config where
  /-- `NZP_ON_CONST`: CONST and HICONST set N/Z/P from the value written (D6). -/
  nzpOnConst : Bool
  /-- `NZP_ON_LINK`: JSR, JSRR and TRAP set N/Z/P from the value written to R7 (D7). -/
  nzpOnLink : Bool
  /-- `DIV_SIGNED`: DIV and MOD read their operands as signed (D9). -/
  divSigned : Bool
  /-- `JSR_TARGET`: the formula of the JSR target (D11). -/
  jsrTarget : JsrTarget
  /-- `USER_CODE_DATA_FAULT`: a load or store below 0x2000 raises the structural fault (D14). -/
  userCodeDataFault : Bool
deriving DecidableEq, Repr

/-- The words the linker emits for load-constant into the register with this number, of a constant
outside -32768 to 65535, or none where it refuses it: the spec gives neither (R112, N14 of
91_not_in_source.md), so this is free (DESIGN CHOICE, log entry 14). -/
opaque Config.wideConstant : BitVec 3 → Int → Option (List Word)

/-- The words the literal directive emits for a number outside the signed 16-bit range, or none where
it refuses it: the spec gives neither (R114), so this is free (DESIGN CHOICE, log entry 14). -/
opaque Config.wideLiteral : Int → Option (List Word)

end Sys2Proof
end

