-- ==== Sys2Proof/Syntax.lean ====
section
/-! DEFINITION. The syntax: the eight registers (10_state.md R30) and one constructor for each row of
spec/opcode_table.json, its three reserved rows among them (30_encoding.md R92, R104, R106). -/

namespace Sys2Proof

/-- The general registers R0 to R7 (R30); none is hardwired. -/
inductive Reg where
  | r0 | r1 | r2 | r3 | r4 | r5 | r6 | r7
deriving DecidableEq, Repr

/-- A decoded instruction (R104). `rd`, `rs`, `rt` are the registers the format of the row names;
a signed immediate is an `Int`, an unsigned one a `Nat` (R93), their ranges are checked by
`Instr.wf` (log entry 9); JSR keeps its 11 raw bits (R104). -/
inductive Instr where
  /-- NOP, BR with no condition bit; its offset field is ignored in effect (R106, R221). -/
  | nop (off : Int)
  | brp (off : Int)
  | brz (off : Int)
  | brzp (off : Int)
  | brn (off : Int)
  | brnp (off : Int)
  | brnz (off : Int)
  | brnzp (off : Int)
  | add (rd rs rt : Reg)
  | mul (rd rs rt : Reg)
  | sub (rd rs rt : Reg)
  | div (rd rs rt : Reg)
  | addi (rd rs : Reg) (imm : Int)
  | cmp (rs rt : Reg)
  | cmpu (rs rt : Reg)
  | cmpi (rs : Reg) (imm : Int)
  | cmpiu (rs : Reg) (uimm : Nat)
  | jsrr (rs : Reg)
  | jsr (raw : BitVec 11)
  | and (rd rs rt : Reg)
  | not (rd rs : Reg)
  | or (rd rs rt : Reg)
  | xor (rd rs rt : Reg)
  | andi (rd rs : Reg) (imm : Int)
  | ldr (rd rs : Reg) (imm : Int)
  /-- STR: `rt` is the data register (field A), `rs` the base (field B), R98. -/
  | str (rt rs : Reg) (imm : Int)
  | rti
  | const (rd : Reg) (imm : Int)
  | sll (rd rs : Reg) (amount : Nat)
  | sra (rd rs : Reg) (amount : Nat)
  | srl (rd rs : Reg) (amount : Nat)
  | mod (rd rs rt : Reg)
  | jmpr (rs : Reg)
  | jmp (off : Int)
  | hiconst (rd : Reg) (uimm : Nat)
  | trap (vector : Nat)
  /-- A word 0x3000-0x3FFF: Decode's verdict `InvalidInstruction` (R104, R106; log entry 4), with bits 11:0. -/
  | reserved3 (low : BitVec 12)
  /-- A word 0xB000-0xBFFF: the verdict `InvalidInstruction` (R104, R106). -/
  | reservedB (low : BitVec 12)
  /-- A word 0xE000-0xEFFF: the verdict `InvalidInstruction` (R104, R106). -/
  | reservedE (low : BitVec 12)
deriving DecidableEq, Repr

end Sys2Proof
end

