-- ==== Sys2Proof/WellFormed.lean ====
section
/-! DEFINITION. Which instruction terms have an encoding: every immediate within the range its field
holds (30_encoding.md R93, R108). Every register and every raw field is in range by its type. -/

namespace Sys2Proof

/-- The range check of a signed `n`-bit immediate, -2^(n-1) to 2^(n-1)-1 (R93). -/
def fitsSigned (n : Nat) (i : Int) : Bool :=
  decide (-(2 : Int) ^ (n - 1) ≤ i) && decide (i < (2 : Int) ^ (n - 1))

/-- The range check of an unsigned `n`-bit immediate, 0 to 2^n-1 (R93). -/
def fitsUnsigned (n : Nat) (u : Nat) : Bool := decide (u < 2 ^ n)

/-- Every immediate is within its field: the widths and signs of R93. -/
def Instr.wf : Instr → Bool
  | .nop off => fitsSigned 9 off
  | .brp off => fitsSigned 9 off
  | .brz off => fitsSigned 9 off
  | .brzp off => fitsSigned 9 off
  | .brn off => fitsSigned 9 off
  | .brnp off => fitsSigned 9 off
  | .brnz off => fitsSigned 9 off
  | .brnzp off => fitsSigned 9 off
  | .add _ _ _ => true
  | .mul _ _ _ => true
  | .sub _ _ _ => true
  | .div _ _ _ => true
  | .addi _ _ imm => fitsSigned 5 imm
  | .cmp _ _ => true
  | .cmpu _ _ => true
  | .cmpi _ imm => fitsSigned 7 imm
  | .cmpiu _ uimm => fitsUnsigned 7 uimm
  | .jsrr _ => true
  | .jsr _ => true
  | .and _ _ _ => true
  | .not _ _ => true
  | .or _ _ _ => true
  | .xor _ _ _ => true
  | .andi _ _ imm => fitsSigned 5 imm
  | .ldr _ _ imm => fitsSigned 6 imm
  | .str _ _ imm => fitsSigned 6 imm
  | .rti => true
  | .const _ imm => fitsSigned 9 imm
  | .sll _ _ amount => fitsUnsigned 4 amount
  | .sra _ _ amount => fitsUnsigned 4 amount
  | .srl _ _ amount => fitsUnsigned 4 amount
  | .mod _ _ _ => true
  | .jmpr _ => true
  | .jmp off => fitsSigned 11 off
  | .hiconst _ uimm => fitsUnsigned 8 uimm
  | .trap vector => fitsUnsigned 8 vector
  | .reserved3 _ => true
  | .reservedB _ => true
  | .reservedE _ => true

end Sys2Proof
end

