-- ==== Sys2Proof/Decode.lean ====
section
/-! DEFINITION. The decoder of 30_encoding.md R104, total on all 65536 words, and after it the encoder of
R107. A word of a reserved class is rejected by name: it decodes to the `reserved` constructor of its
class, the verdict `InvalidInstruction`. -/

namespace Sys2Proof

/-! ### Register fields (R91) -/

/-- The 3-bit number of a register. -/
def Reg.bits : Reg → BitVec 3
  | .r0 => 0#3 | .r1 => 1#3 | .r2 => 2#3 | .r3 => 3#3
  | .r4 => 4#3 | .r5 => 5#3 | .r6 => 6#3 | .r7 => 7#3

/-- The register a 3-bit field names. -/
def Reg.ofBits (b : BitVec 3) : Reg :=
  match b.toNat with
  | 0 => .r0 | 1 => .r1 | 2 => .r2 | 3 => .r3
  | 4 => .r4 | 5 => .r5 | 6 => .r6 | _ => .r7

/-- Field A, bits 11:9 (R91). -/
def fieldA (w : Word) : Reg := Reg.ofBits (w.extractLsb' 9 3)

/-- Field B, bits 8:6 (R91). -/
def fieldB (w : Word) : Reg := Reg.ofBits (w.extractLsb' 6 3)

/-- Field C, bits 2:0 (R91). -/
def fieldC (w : Word) : Reg := Reg.ofBits (w.extractLsb' 0 3)

/-- The immediate in the low `n` bits, read as signed: `sext_n` of R13 as an integer. -/
def signedField (n : Nat) (w : Word) : Int := (w.extractLsb' 0 n).toInt

/-- The immediate in the low `n` bits, read as unsigned: `zext_n` of R13 as a number. -/
def unsignedField (n : Nat) (w : Word) : Nat := (w.extractLsb' 0 n).toNat

/-! ### One decoder for each opcode class (R94 to R103) -/

/-- Class 0000: the condition bits n, z, p in bits 11:9 select the variant (R94). -/
def decodeBranch (w : Word) : Instr :=
  match (w.extractLsb' 9 3).toNat with
  | 0 => .nop (signedField 9 w)
  | 1 => .brp (signedField 9 w)
  | 2 => .brz (signedField 9 w)
  | 3 => .brzp (signedField 9 w)
  | 4 => .brn (signedField 9 w)
  | 5 => .brnp (signedField 9 w)
  | 6 => .brnz (signedField 9 w)
  | _ => .brnzp (signedField 9 w)

/-- Class 0001: bit 5 selects the immediate form, bits 4:3 the operation (R95). -/
def decodeArith (w : Word) : Instr :=
  if w.getLsbD 5 then .addi (fieldA w) (fieldB w) (signedField 5 w)
  else match (w.extractLsb' 3 2).toNat with
    | 0 => .add (fieldA w) (fieldB w) (fieldC w)
    | 1 => .mul (fieldA w) (fieldB w) (fieldC w)
    | 2 => .sub (fieldA w) (fieldB w) (fieldC w)
    | _ => .div (fieldA w) (fieldB w) (fieldC w)

/-- Class 0010: bits 8:7 select the comparison (R96). -/
def decodeCompare (w : Word) : Instr :=
  match (w.extractLsb' 7 2).toNat with
  | 0 => .cmp (fieldA w) (fieldC w)
  | 1 => .cmpu (fieldA w) (fieldC w)
  | 2 => .cmpi (fieldA w) (signedField 7 w)
  | _ => .cmpiu (fieldA w) (unsignedField 7 w)

/-- Class 0100: bit 11 selects the immediate form (R97). -/
def decodeCall (w : Word) : Instr :=
  if w.getLsbD 11 then .jsr (w.extractLsb' 0 11) else .jsrr (fieldB w)

/-- Class 0101: bit 5 selects the immediate form, bits 4:3 the operation (R95). -/
def decodeLogic (w : Word) : Instr :=
  if w.getLsbD 5 then .andi (fieldA w) (fieldB w) (signedField 5 w)
  else match (w.extractLsb' 3 2).toNat with
    | 0 => .and (fieldA w) (fieldB w) (fieldC w)
    | 1 => .not (fieldA w) (fieldB w)
    | 2 => .or (fieldA w) (fieldB w) (fieldC w)
    | _ => .xor (fieldA w) (fieldB w) (fieldC w)

/-- Class 1010: bits 5:4 select the shift or the modulo (R101). -/
def decodeShift (w : Word) : Instr :=
  match (w.extractLsb' 4 2).toNat with
  | 0 => .sll (fieldA w) (fieldB w) (unsignedField 4 w)
  | 1 => .sra (fieldA w) (fieldB w) (unsignedField 4 w)
  | 2 => .srl (fieldA w) (fieldB w) (unsignedField 4 w)
  | _ => .mod (fieldA w) (fieldB w) (fieldC w)

/-- Class 1100: bit 11 selects the immediate form (R97). -/
def decodeJump (w : Word) : Instr :=
  if w.getLsbD 11 then .jmp (signedField 11 w) else .jmpr (fieldB w)

/-- `Decode(w)` of R104, by the opcode class in bits 15:12 (R92). The last pattern is class 1111. -/
def decode (w : Word) : Instr :=
  match (w.extractLsb' 12 4).toNat with
  | 0x0 => decodeBranch w
  | 0x1 => decodeArith w
  | 0x2 => decodeCompare w
  | 0x3 => .reserved3 (w.extractLsb' 0 12)
  | 0x4 => decodeCall w
  | 0x5 => decodeLogic w
  | 0x6 => .ldr (fieldA w) (fieldB w) (signedField 6 w)
  | 0x7 => .str (fieldA w) (fieldB w) (signedField 6 w)
  | 0x8 => .rti
  | 0x9 => .const (fieldA w) (signedField 9 w)
  | 0xA => decodeShift w
  | 0xB => .reservedB (w.extractLsb' 0 12)
  | 0xC => decodeJump w
  | 0xD => .hiconst (fieldA w) (unsignedField 8 w)
  | 0xE => .reservedE (w.extractLsb' 0 12)
  | _ => .trap (unsignedField 8 w)

/-- Is the decoded instruction the verdict `InvalidInstruction` of R104? -/
def Instr.isReserved : Instr → Bool
  | .reserved3 _ => true
  | .reservedB _ => true
  | .reservedE _ => true
  | _ => false

/-! ### Bytes -/

/-- Why a byte string holds no instruction. -/
inductive DecodeError where
  /-- Fewer than the two bytes of one word are left (R90). Raised by `decodeBytes` only; safe:
  the machine's own fetch always reads a whole word. -/
  | truncated
deriving DecidableEq, Repr

/-- The word of two bytes, the high one first: the byte order in which the model keeps a word
(log entry 2; the order of the object file, R297). -/
def wordOfBytes (hi lo : Byte) : Word := hi ++ lo

/-- Bits 15:8 of a word. -/
def highByte (w : Word) : Byte := w.extractLsb' 8 8

/-- Bits 7:0 of a word. -/
def lowByte (w : Word) : Byte := w.extractLsb' 0 8

/-- Read one instruction from a byte string and give back the rest; every instruction is one word (R90). -/
def decodeBytes : List Byte → Except DecodeError (Instr × List Byte)
  | hi :: lo :: rest => .ok (decode (wordOfBytes hi lo), rest)
  | _ => .error .truncated

/-- The instruction the decoder reads from a row's word, bit 0 the word's least significant bit. -/
def decodeTableWord (nbits w : Nat) : Option Instr :=
  let v : Word := BitVec.ofNat 16 (w % 2 ^ nbits)
  match decodeBytes [highByte v, lowByte v] with
  | .ok (i, _) => some i
  | .error _ => none

/-! ### The encoder -/

/-- The canonical word of an instruction (R107), each row as the format tables R94 to R103 draw it:
ignored bits 0, but HICONST bit 8, which is 1 (R102). -/
def encode : Instr → Word
  | .nop off => 0b0000#4 ++ 0b000#3 ++ BitVec.ofInt 9 off
  | .brp off => 0b0000#4 ++ 0b001#3 ++ BitVec.ofInt 9 off
  | .brz off => 0b0000#4 ++ 0b010#3 ++ BitVec.ofInt 9 off
  | .brzp off => 0b0000#4 ++ 0b011#3 ++ BitVec.ofInt 9 off
  | .brn off => 0b0000#4 ++ 0b100#3 ++ BitVec.ofInt 9 off
  | .brnp off => 0b0000#4 ++ 0b101#3 ++ BitVec.ofInt 9 off
  | .brnz off => 0b0000#4 ++ 0b110#3 ++ BitVec.ofInt 9 off
  | .brnzp off => 0b0000#4 ++ 0b111#3 ++ BitVec.ofInt 9 off
  | .add rd rs rt => 0b0001#4 ++ rd.bits ++ rs.bits ++ 0b000#3 ++ rt.bits
  | .mul rd rs rt => 0b0001#4 ++ rd.bits ++ rs.bits ++ 0b001#3 ++ rt.bits
  | .sub rd rs rt => 0b0001#4 ++ rd.bits ++ rs.bits ++ 0b010#3 ++ rt.bits
  | .div rd rs rt => 0b0001#4 ++ rd.bits ++ rs.bits ++ 0b011#3 ++ rt.bits
  | .addi rd rs imm => 0b0001#4 ++ rd.bits ++ rs.bits ++ 0b1#1 ++ BitVec.ofInt 5 imm
  | .cmp rs rt => 0b0010#4 ++ rs.bits ++ 0b00#2 ++ 0b0000#4 ++ rt.bits
  | .cmpu rs rt => 0b0010#4 ++ rs.bits ++ 0b01#2 ++ 0b0000#4 ++ rt.bits
  | .cmpi rs imm => 0b0010#4 ++ rs.bits ++ 0b10#2 ++ BitVec.ofInt 7 imm
  | .cmpiu rs uimm => 0b0010#4 ++ rs.bits ++ 0b11#2 ++ BitVec.ofNat 7 uimm
  | .jsrr rs => 0b0100#4 ++ 0b0#1 ++ 0b00#2 ++ rs.bits ++ 0b000000#6
  | .jsr raw => 0b0100#4 ++ 0b1#1 ++ raw
  | .and rd rs rt => 0b0101#4 ++ rd.bits ++ rs.bits ++ 0b000#3 ++ rt.bits
  | .not rd rs => 0b0101#4 ++ rd.bits ++ rs.bits ++ 0b001#3 ++ 0b000#3
  | .or rd rs rt => 0b0101#4 ++ rd.bits ++ rs.bits ++ 0b010#3 ++ rt.bits
  | .xor rd rs rt => 0b0101#4 ++ rd.bits ++ rs.bits ++ 0b011#3 ++ rt.bits
  | .andi rd rs imm => 0b0101#4 ++ rd.bits ++ rs.bits ++ 0b1#1 ++ BitVec.ofInt 5 imm
  | .ldr rd rs imm => 0b0110#4 ++ rd.bits ++ rs.bits ++ BitVec.ofInt 6 imm
  | .str rt rs imm => 0b0111#4 ++ rt.bits ++ rs.bits ++ BitVec.ofInt 6 imm
  | .rti => 0b1000#4 ++ 0x000#12
  | .const rd imm => 0b1001#4 ++ rd.bits ++ BitVec.ofInt 9 imm
  | .sll rd rs amount => 0b1010#4 ++ rd.bits ++ rs.bits ++ 0b00#2 ++ BitVec.ofNat 4 amount
  | .sra rd rs amount => 0b1010#4 ++ rd.bits ++ rs.bits ++ 0b01#2 ++ BitVec.ofNat 4 amount
  | .srl rd rs amount => 0b1010#4 ++ rd.bits ++ rs.bits ++ 0b10#2 ++ BitVec.ofNat 4 amount
  | .mod rd rs rt => 0b1010#4 ++ rd.bits ++ rs.bits ++ 0b11#2 ++ 0b0#1 ++ rt.bits
  | .jmpr rs => 0b1100#4 ++ 0b0#1 ++ 0b00#2 ++ rs.bits ++ 0b000000#6
  | .jmp off => 0b1100#4 ++ 0b1#1 ++ BitVec.ofInt 11 off
  | .hiconst rd uimm => 0b1101#4 ++ rd.bits ++ 0b1#1 ++ BitVec.ofNat 8 uimm
  | .trap vector => 0b1111#4 ++ 0b0000#4 ++ BitVec.ofNat 8 vector
  | .reserved3 low => 0b0011#4 ++ low
  | .reservedB low => 0b1011#4 ++ low
  | .reservedE low => 0b1110#4 ++ low

/-! ### The opcode table -/

/-- One row of spec/opcode_table.json: a word `w` is of the row when `w &&& mask = pattern`. -/
structure OpcodeRow where
  mask : Word
  pattern : Word
deriving DecidableEq, Repr

/-- The row of spec/opcode_table.json that an instruction stands for. -/
def Instr.row : Instr → OpcodeRow
  | .nop _ => ⟨0xFE00, 0x0000⟩
  | .brp _ => ⟨0xFE00, 0x0200⟩
  | .brz _ => ⟨0xFE00, 0x0400⟩
  | .brzp _ => ⟨0xFE00, 0x0600⟩
  | .brn _ => ⟨0xFE00, 0x0800⟩
  | .brnp _ => ⟨0xFE00, 0x0A00⟩
  | .brnz _ => ⟨0xFE00, 0x0C00⟩
  | .brnzp _ => ⟨0xFE00, 0x0E00⟩
  | .add _ _ _ => ⟨0xF038, 0x1000⟩
  | .mul _ _ _ => ⟨0xF038, 0x1008⟩
  | .sub _ _ _ => ⟨0xF038, 0x1010⟩
  | .div _ _ _ => ⟨0xF038, 0x1018⟩
  | .addi _ _ _ => ⟨0xF020, 0x1020⟩
  | .cmp _ _ => ⟨0xF180, 0x2000⟩
  | .cmpu _ _ => ⟨0xF180, 0x2080⟩
  | .cmpi _ _ => ⟨0xF180, 0x2100⟩
  | .cmpiu _ _ => ⟨0xF180, 0x2180⟩
  | .jsrr _ => ⟨0xF800, 0x4000⟩
  | .jsr _ => ⟨0xF800, 0x4800⟩
  | .and _ _ _ => ⟨0xF038, 0x5000⟩
  | .not _ _ => ⟨0xF038, 0x5008⟩
  | .or _ _ _ => ⟨0xF038, 0x5010⟩
  | .xor _ _ _ => ⟨0xF038, 0x5018⟩
  | .andi _ _ _ => ⟨0xF020, 0x5020⟩
  | .ldr _ _ _ => ⟨0xF000, 0x6000⟩
  | .str _ _ _ => ⟨0xF000, 0x7000⟩
  | .rti => ⟨0xF000, 0x8000⟩
  | .const _ _ => ⟨0xF000, 0x9000⟩
  | .sll _ _ _ => ⟨0xF030, 0xA000⟩
  | .sra _ _ _ => ⟨0xF030, 0xA010⟩
  | .srl _ _ _ => ⟨0xF030, 0xA020⟩
  | .mod _ _ _ => ⟨0xF030, 0xA030⟩
  | .jmpr _ => ⟨0xF800, 0xC000⟩
  | .jmp _ => ⟨0xF800, 0xC800⟩
  | .hiconst _ _ => ⟨0xF000, 0xD000⟩
  | .trap _ => ⟨0xF000, 0xF000⟩
  | .reserved3 _ => ⟨0xF000, 0x3000⟩
  | .reservedB _ => ⟨0xF000, 0xB000⟩
  | .reservedE _ => ⟨0xF000, 0xE000⟩

/-- The bits of the word that the decoder ignores (R105). -/
def Instr.ignoredBits : Instr → Word
  | .cmp _ _ => 0x0078
  | .cmpu _ _ => 0x0078
  | .not _ _ => 0x0007
  | .jsrr _ => 0x063F
  | .jmpr _ => 0x063F
  | .rti => 0x0FFF
  | .mod _ _ _ => 0x0008
  | .hiconst _ _ => 0x0100
  | .trap _ => 0x0F00
  | _ => 0x0000

/-- The value the encoder gives the ignored bits: 0, but HICONST bit 8, which is 1 (R102, R107). -/
def Instr.canonicalBits : Instr → Word
  | .hiconst _ _ => 0x0100
  | _ => 0x0000

end Sys2Proof
end

