-- ==== Sys2Proof/Machine/Platform.lean ====
section
/-! DEFINITION. The fixed addresses of the block (20_memory.md R64 to R66, 70_reset_and_hazards.md R290),
as named constants so that a correction touches one place (93_implementation_defined.md I18), its
link register, and the default parameter values of 00_scope.md R11. -/

namespace Sys2Proof.Machine

open Sys2Proof

/-- The user code region is the addresses below this one (R64). -/
def userCodeEnd : Word := 0x2000

/-- The first OS address: OS code starts here, user data ends below it (R64). -/
def osBase : Word := 0x8000

/-- The OS code region ends below this address, OS data starts here (R64). -/
def osCodeEnd : Word := 0xA000

/-- The reset value of `pc`, the OS boot entry (R39, R66, R290). -/
def resetPc : Word := 0x8200

/-- The first trap entry word: vector `v` enters at `0x8000 | v` (R66, R243). -/
def trapBase : Word := 0x8000

/-- R7, the link register by hardware action (R32). -/
def linkReg : Reg := .r7

/-- The default of every parameter (R11). -/
def defaultConfig : Config :=
  { nzpOnConst := true
    nzpOnLink := true
    divSigned := false
    jsrTarget := .abs
    userCodeDataFault := true }

/-- The four regions of the address map (R64). -/
inductive Region where
  | userCode | userData | osCode | osData
deriving DecidableEq, Repr

/-- The region an address lies in (R64). -/
def regionOf (a : Word) : Region :=
  if a < userCodeEnd then .userCode
  else if a < osBase then .userData
  else if a < osCodeEnd then .osCode
  else .osData

end Sys2Proof.Machine
end

