-- ==== Sys2Proof/Machine/State.lean ====
section
/-! DEFINITION. The whole state of the machine as plain data: the tuple `(pc, PSR, x[0..7], M[0..65535])` of
10_state.md, with the values of the five parameters of R11 beside it, the reasons a step can stop,
and the state after reset. -/

namespace Sys2Proof.Machine

open Sys2Proof

/-- The two privilege levels; `os` is PSR.PRIV = 1, `user` is PSR.PRIV = 0 (R17, R40, R261). -/
inductive Mode where
  | user | os
deriving DecidableEq, Repr

/-- The condition flags PSR.N, PSR.Z and PSR.P (R40). -/
structure Nzp where
  n : Bool
  z : Bool
  p : Bool
deriving DecidableEq, Repr

/-- The processor status register as its named fields; R40 lets a model hold it so, since no
instruction reads or writes it as a word (log entry 8). `Psr.word` is its word value. -/
structure Psr where
  mode : Mode
  nzp : Nzp
deriving DecidableEq, Repr

/-- The one register file of R30 and R31, shared by both modes. -/
structure RegFile where
  r0 : Word
  r1 : Word
  r2 : Word
  r3 : Word
  r4 : Word
  r5 : Word
  r6 : Word
  r7 : Word
deriving DecidableEq, Repr

/-- The memory array of R44 as a list of (key, byte) cells in one canonical form (`Memory.wf`).
The word at word address `a` is kept at the keys `2a` (bits 15:8) and `2a + 1` (bits 7:0); keys are the
model's own, the machine has no byte addresses (R60; log entry 2). -/
abbrev Memory := List Host.Cell

/-- Everything the spec gives the machine, and the parameters of R11. -/
structure State where
  /-- The program counter, a word address (R35). -/
  pc : Word
  /-- The processor status register (R40). -/
  psr : Psr
  /-- R0 to R7 (R30). -/
  regs : RegFile
  /-- The 65536 words of memory (R44). -/
  mem : Memory
  /-- The MODEL's own field: the values of R11's parameters, which no step writes (log entry 1). -/
  cfg : Config
deriving DecidableEq, Repr

/-- The execution errors of R251, each with its payload and, last, the error's `pc`: the value of
the program counter when the step began (R250). All are safe: the spec ends the step so. -/
inductive Fault where
  /-- Code 1. Raised by the straight-line advance and by the fetch guard (R141, R142); safe. -/
  | pcInReservedRange (address pc : Word)
  /-- Code 2. Raised by a taken control transfer to an address that is no code address (R143); safe. -/
  | invalidJump (address pc : Word)
  /-- Code 3. Raised by LDR and STR (R67): `lacksPrivilege` true is the privilege fault, false the
  structural fault; safe. -/
  | invalidMemoryAccess (lacksPrivilege : Bool) (pc : Word)
  /-- Code 4. Raised by a word of a reserved opcode class (R106); safe. -/
  | invalidInstruction (word pc : Word)
deriving DecidableEq, Repr

/-- Why a step could be refused. Nothing raises one: every instruction of the table has its meaning. -/
inductive Refusal where
  /-- An instruction that has no meaning yet. Raised by no arm; it would be safe. -/
  | notModelled (mnemonic : String)
deriving DecidableEq, Repr

/-- The reset state (R290, R48): `pc` = 0x8200, OS mode, N set, Z and P clear, every register and every
memory word 0; the parameters at R11's defaults. -/
def State.reset : State :=
  { pc := resetPc
    psr := { mode := .os, nzp := { n := true, z := false, p := false } }
    regs := { r0 := 0, r1 := 0, r2 := 0, r3 := 0, r4 := 0, r5 := 0, r6 := 0, r7 := 0 }
    mem := []
    cfg := defaultConfig }

end Sys2Proof.Machine
end

