-- ==== Sys2Proof/Machine/Flags.lean ====
section
/-! DEFINITION. The condition flags: the two flag functions of 40_step.md (R147, R148), the flag writes the
parameters decide (R174, R175, R225, R226, R240), the branch condition (44_control.md R220) and the
PSR's word value (10_state.md R40). -/

namespace Sys2Proof.Machine

open Sys2Proof

/-- `SetNZP(v)` (R147): the sign of `v` read as signed. -/
def setNzp (v : Word) : Nzp :=
  { n := decide (v.toInt < 0), z := decide (v = 0#16), p := decide (0 < v.toInt) }

/-- `SetNZPcmp(a, b)` (R148): the mathematical comparison of two integers. -/
def setNzpCmp (a b : Int) : Nzp :=
  { n := decide (a < b), z := decide (a = b), p := decide (b < a) }

/-- The flag write of CONST and HICONST, present when `NZP_ON_CONST` holds (R174, R175). -/
def constFlags (c : Config) (v : Word) : Option Nzp :=
  if c.nzpOnConst then some (setNzp v) else none

/-- The flag write of a link write to R7, present when `NZP_ON_LINK` holds (R225, R226, R240). -/
def linkFlags (c : Config) (v : Word) : Option Nzp :=
  if c.nzpOnLink then some (setNzp v) else none

/-- The branch condition (R220): `nzp` is the condition field, `f` the flags. -/
def branchTaken (nzp f : Nzp) : Bool :=
  (nzp.n && f.n) || (nzp.z && f.z) || (nzp.p && f.p)

/-- N, Z and P as the three bits 2:0 of R40 and R270. -/
def Nzp.bits (f : Nzp) : BitVec 3 :=
  BitVec.ofBool f.n ++ BitVec.ofBool f.z ++ BitVec.ofBool f.p

/-- The PSR as a word (R40): PRIV in bit 15, bits 14:3 read as 0, N, Z, P in bits 2:0. -/
def Psr.word (q : Psr) : Word :=
  BitVec.ofBool (decide (q.mode = .os)) ++ 0#12 ++ q.nzp.bits

end Sys2Proof.Machine
end

