-- ==== Sys2Proof/Machine/Operands.lean ====
section
/-! DEFINITION. The operand forms: immediates as words (30_encoding.md R93), effective addresses
(43_load_store.md R210), the targets of control transfers (R220, R223, R225, R240), and the values the
arithmetic instructions compute (40_step.md R149 to R151). -/

namespace Sys2Proof.Machine

open Sys2Proof

/-! ### Immediates -/

/-- A sign-extended immediate as a word: `word(i)` of R13. -/
def signedImm (i : Int) : Word := BitVec.ofInt 16 i

/-- A zero-extended immediate as a word (R13). -/
def unsignedImm (u : Nat) : Word := BitVec.ofNat 16 u

/-! ### Addresses -/

/-- The effective address of LDR and STR: `x[s] + sext_6(imm6)` modulo 2^16 (R210). -/
def effectiveAddress (base : Word) (imm : Int) : Word := base + signedImm imm

/-- The PC-relative target of BR and JMP: `pc + 1 + off` modulo 2^16 (R220, R223). -/
def relativeTarget (pc : Word) (off : Int) : Word := pc + 1#16 + signedImm off

/-- The target of JSR, by the parameter `JSR_TARGET` (R225). -/
def jsrTarget (c : Config) (pc : Word) (raw : BitVec 11) : Word :=
  match c.jsrTarget with
  | .abs => raw.signExtend 16 <<< 4
  | .page => (pc &&& 0x8000) ||| (raw.zeroExtend 16 <<< 4)

/-- The entry word of a trap vector: `0x8000 | zext_8(v)` (R240). -/
def trapTarget (vector : Nat) : Word := trapBase ||| (BitVec.ofNat 8 vector).zeroExtend 16

/-! ### Values -/

/-- MUL: the low 16 bits of the product (R149, R161). -/
def mulValue (a b : Word) : Word := BitVec.ofNat 16 (a.toNat * b.toNat)

/-- DIV: 0 for a zero divisor, else the quotient under `DIV_SIGNED` (R150, R163). -/
def divValue (c : Config) (a b : Word) : Word :=
  if b = 0#16 then 0#16
  else if c.divSigned then BitVec.ofInt 16 (a.toInt.tdiv b.toInt)
  else BitVec.ofNat 16 (a.toNat / b.toNat)

/-- MOD: 0 for a zero divisor, else the remainder under `DIV_SIGNED` (R150, R173). -/
def modValue (c : Config) (a b : Word) : Word :=
  if b = 0#16 then 0#16
  else if c.divSigned then BitVec.ofInt 16 (a.toInt - b.toInt * a.toInt.tdiv b.toInt)
  else BitVec.ofNat 16 (a.toNat % b.toNat)

/-- SLL: zeros in from the right (R151, R170). -/
def sllValue (a : Word) (k : Nat) : Word := a <<< k

/-- SRA: copies of bit 15 in from the left (R151, R171). -/
def sraValue (a : Word) (k : Nat) : Word := a.sshiftRight k

/-- SRL: zeros in from the left (R151, R172). -/
def srlValue (a : Word) (k : Nat) : Word := a >>> k

/-- HICONST: bits 15:8 from the immediate, bits 7:0 kept (R175). -/
def hiconstValue (old : Word) (uimm : Nat) : Word :=
  (old &&& 0x00FF) ||| ((BitVec.ofNat 8 uimm).zeroExtend 16 <<< 8)

end Sys2Proof.Machine
end

