-- ==== Sys2Proof/Machine/Ops.lean ====
section
/-! DEFINITION. The named operations every meaning is written over: registers (10_state.md), memory
(20_memory.md), the checks, the two ways `pc` moves, the effects record and its commit
(40_step.md R140 to R145), trap entry and trap return (60_exceptions.md R257, R258), and the fetch. -/

namespace Sys2Proof.Machine

open Sys2Proof

/-! ### Registers -/

/-- Read a register (R14, R30). -/
def RegFile.get (x : RegFile) : Reg → Word
  | .r0 => x.r0 | .r1 => x.r1 | .r2 => x.r2 | .r3 => x.r3
  | .r4 => x.r4 | .r5 => x.r5 | .r6 => x.r6 | .r7 => x.r7

/-- Write a register; none is hardwired (R14, R30). -/
def RegFile.set (x : RegFile) (r : Reg) (v : Word) : RegFile :=
  match r with
  | .r0 => { x with r0 := v } | .r1 => { x with r1 := v }
  | .r2 => { x with r2 := v } | .r3 => { x with r3 := v }
  | .r4 => { x with r4 := v } | .r5 => { x with r5 := v }
  | .r6 => { x with r6 := v } | .r7 => { x with r7 := v }

/-- `x[r]` in the state at the start of the step (R14). -/
def State.reg (s : State) (r : Reg) : Word := s.regs.get r

/-! ### Memory -/

/-- What a cell that is not listed reads as: every memory word is 0 after reset (R44, R290). -/
def unlistedByte : Byte := 0

/-- One more than the last key: two cells for each of the 65536 words (R44). -/
def keyEnd : Nat := 131072

/-- Read one cell. -/
def Memory.readByte : Memory → Nat → Byte
  | [], _ => unlistedByte
  | (k, b) :: m, a => if k = a then b else Memory.readByte m a

/-- Take every cell at a key out. -/
def Memory.remove (m : Memory) (a : Nat) : Memory := m.filter (fun c => c.1 != a)

/-- Put a cell in before the first larger key. -/
def Memory.insert : Memory → Nat → Byte → Memory
  | [], a, v => [(a, v)]
  | (k, b) :: m, a, v =>
    if a < k then (a, v) :: (k, b) :: m else (k, b) :: Memory.insert m a v

/-- Write one cell: the cell's entry goes, and a new one comes unless the value is what an unlisted
cell reads as, so that the canonical form is kept. -/
def Memory.writeByte (m : Memory) (a : Nat) (v : Byte) : Memory :=
  if v = unlistedByte then Memory.remove m a else Memory.insert (Memory.remove m a) a v

/-- The key of bits 15:8 of the word at a word address (log entry 2). -/
def highKey (a : Word) : Nat := 2 * a.toNat

/-- The key of bits 7:0 of the word at a word address (log entry 2). -/
def lowKey (a : Word) : Nat := 2 * a.toNat + 1

/-- `MemRead(a, 1)` (R14): the word at word address `a`, which every address has (R60). -/
def Memory.readWord (m : Memory) (a : Word) : Word :=
  wordOfBytes (Memory.readByte m (highKey a)) (Memory.readByte m (lowKey a))

/-- `MemWrite(a, 1, v)` (R14). -/
def Memory.writeWord (m : Memory) (a : Word) (v : Word) : Memory :=
  Memory.writeByte (Memory.writeByte m (highKey a) (highByte v)) (lowKey a) (lowByte v)

/-- The canonical form: keys strictly rising and inside the address space, no cell equal to what an
unlisted one reads as. -/
abbrev Memory.wf (m : Memory) : Prop :=
  m.Pairwise (fun c d => c.1 < d.1) ∧ ∀ c ∈ m, c.2 ≠ unlistedByte ∧ c.1 < keyEnd

/-! ### Checks -/

/-- `ValidCode(a)` (R65). -/
def validCode (a : Word) : Bool :=
  decide (a < userCodeEnd) || (decide (osBase ≤ a) && decide (a < osCodeEnd))

/-- `CheckData(a)` (R67): the privilege test first, then the structural test. -/
def checkData (s : State) (a : Word) : Except Fault Unit :=
  if osBase ≤ a ∧ s.psr.mode = .user then .error (.invalidMemoryAccess true s.pc)
  else if s.cfg.userCodeDataFault = true ∧ a < userCodeEnd then
    .error (.invalidMemoryAccess false s.pc)
  else .ok ()

/-- `Advance()` (R142): the next pc of an instruction that transfers no control. -/
def advance (s : State) : Except Fault Word :=
  if validCode (s.pc + 1#16) then .ok (s.pc + 1#16)
  else .error (.pcInReservedRange (s.pc + 1#16) s.pc)

/-- `JumpTo(t)` (R143): the next pc of a taken control transfer. -/
def jumpTo (s : State) (t : Word) : Except Fault Word :=
  if validCode t then .ok t else .error (.invalidJump t s.pc)

/-! ### Effects and commit -/

/-- The effects of one instruction (R144): at most one register write, one flag write, one memory
write and one write of PSR.PRIV, and the next pc. -/
structure Effects where
  reg : Option (Reg × Word)
  flags : Option Nzp
  mem : Option (Word × Word)
  mode : Option Mode
  pc : Word
deriving DecidableEq, Repr

/-- `Commit(eff)` (R145): every effect of the record at once. -/
def commit (s : State) (e : Effects) : State :=
  { pc := e.pc
    psr := { mode := e.mode.getD s.psr.mode, nzp := e.flags.getD s.psr.nzp }
    regs := match e.reg with
      | some (r, v) => s.regs.set r v
      | none => s.regs
    mem := match e.mem with
      | some (a, v) => Memory.writeWord s.mem a v
      | none => s.mem
    cfg := s.cfg }

/-- End a step (R8, R145): commit the effects, or report the error and write nothing. -/
def settle (s : State) : Except Fault Effects → Host.Outcome State Fault Refusal
  | .ok e => .next (commit s e)
  | .error f => .fault f

/-- The effects of an instruction that writes a register, may set the flags, and advances. -/
def writeRegEffects (s : State) (r : Reg) (v : Word) (f : Option Nzp) : Except Fault Effects :=
  match advance s with
  | .ok t => .ok { reg := some (r, v), flags := f, mem := none, mode := none, pc := t }
  | .error e => .error e

/-- The effects of an instruction that writes a register, sets the flags from the value (R147), and
advances: the shape of 41_alu.md. -/
def aluEffects (s : State) (r : Reg) (v : Word) : Except Fault Effects :=
  writeRegEffects s r v (some (setNzp v))

/-- The effects of a compare: the flags of R148, and the advance (42_compare.md). -/
def compareEffects (s : State) (a b : Int) : Except Fault Effects :=
  match advance s with
  | .ok t => .ok { reg := none, flags := some (setNzpCmp a b), mem := none, mode := none, pc := t }
  | .error e => .error e

/-- The effects of a jump that writes nothing but `pc` (R223, R224). -/
def jumpEffects (s : State) (t : Word) : Except Fault Effects :=
  match jumpTo s t with
  | .ok t => .ok { reg := none, flags := none, mem := none, mode := none, pc := t }
  | .error e => .error e

/-- BR with condition field `nzp` (R221). -/
def branchEffects (s : State) (nzp : Nzp) (off : Int) : Except Fault Effects :=
  if branchTaken nzp s.psr.nzp then jumpEffects s (relativeTarget s.pc off)
  else match advance s with
    | .ok t => .ok { reg := none, flags := none, mem := none, mode := none, pc := t }
    | .error e => .error e

/-- A transfer that links: the target checked before any write, then R7 and its flags
(R225, R226). -/
def callEffects (s : State) (t : Word) : Except Fault Effects :=
  match jumpTo s t with
  | .ok t =>
    .ok { reg := some (linkReg, s.pc + 1#16), flags := linkFlags s.cfg (s.pc + 1#16), mem := none,
          mode := none, pc := t }
  | .error e => .error e

/-- Trap entry (R240, R257): `pc + 1` into R7, OS mode, the entry word of the vector, and the flags of
the link write. Nothing else is saved. -/
def trapEntry (s : State) (vector : Nat) : Except Fault Effects :=
  match jumpTo s (trapTarget vector) with
  | .ok t =>
    .ok { reg := some (linkReg, s.pc + 1#16), flags := linkFlags s.cfg (s.pc + 1#16), mem := none,
          mode := some .os, pc := t }
  | .error e => .error e

/-- Trap return (R241, R258): `pc` from R7, validated first, and user mode. Nothing else is restored. -/
def trapReturn (s : State) : Except Fault Effects :=
  match jumpTo s (s.reg linkReg) with
  | .ok t => .ok { reg := none, flags := none, mem := none, mode := some .user, pc := t }
  | .error e => .error e

/-- A word of a reserved class (R106): `InvalidInstruction`, whose payload is the fetched word (R251). -/
def invalidEffects (s : State) (w : Word) : Except Fault Effects :=
  .error (.invalidInstruction w s.pc)

/-! ### Fetch -/

/-- The fetch guard, the fetch and the decoding of R140 and R141; no protection check (R68). -/
def fetch (s : State) : Except Fault Instr :=
  if validCode s.pc then .ok (decode (s.mem.readWord s.pc))
  else .error (.pcInReservedRange s.pc s.pc)

/-! ### Errors -/

/-- The numeric code of an execution error (R251). -/
def Fault.code : Fault → Nat
  | .pcInReservedRange _ _ => 1
  | .invalidJump _ _ => 2
  | .invalidMemoryAccess _ _ => 3
  | .invalidInstruction _ _ => 4

/-- The `pc` of an execution error (R250). -/
def Fault.pc : Fault → Word
  | .pcInReservedRange _ pc => pc
  | .invalidJump _ pc => pc
  | .invalidMemoryAccess _ pc => pc
  | .invalidInstruction _ pc => pc

end Sys2Proof.Machine
end

