-- ==== Sys2Proof/Machine/Arith.lean ====
section
/-! DEFINITION. The arithmetic instructions, opcode class 0001 (41_alu.md R160 to R164). -/

namespace Sys2Proof.Machine

open Sys2Proof

/-- ADD: the sum modulo 2^16 and its flags (R160). -/
def addEffects (rd rs rt : Reg) (s : State) : Except Fault Effects :=
  aluEffects s rd (s.reg rs + s.reg rt)

/-- The meaning of ADD. -/
def execAdd (rd rs rt : Reg) (s : State) : Host.Outcome State Fault Refusal :=
  settle s (addEffects rd rs rt s)

/-- MUL: the low 16 bits of the product and its flags (R161). -/
def mulEffects (rd rs rt : Reg) (s : State) : Except Fault Effects :=
  aluEffects s rd (mulValue (s.reg rs) (s.reg rt))

/-- The meaning of MUL. -/
def execMul (rd rs rt : Reg) (s : State) : Host.Outcome State Fault Refusal :=
  settle s (mulEffects rd rs rt s)

/-- SUB: the difference modulo 2^16 and its flags (R162). -/
def subEffects (rd rs rt : Reg) (s : State) : Except Fault Effects :=
  aluEffects s rd (s.reg rs - s.reg rt)

/-- The meaning of SUB. -/
def execSub (rd rs rt : Reg) (s : State) : Host.Outcome State Fault Refusal :=
  settle s (subEffects rd rs rt s)

/-- DIV: the quotient under `DIV_SIGNED`, 0 for a zero divisor, and its flags (R163). -/
def divEffects (rd rs rt : Reg) (s : State) : Except Fault Effects :=
  aluEffects s rd (divValue s.cfg (s.reg rs) (s.reg rt))

/-- The meaning of DIV. -/
def execDiv (rd rs rt : Reg) (s : State) : Host.Outcome State Fault Refusal :=
  settle s (divEffects rd rs rt s)

/-- ADDI: the sum with the sign-extended immediate and its flags (R164). -/
def addiEffects (rd rs : Reg) (imm : Int) (s : State) : Except Fault Effects :=
  aluEffects s rd (s.reg rs + signedImm imm)

/-- The meaning of ADDI. -/
def execAddi (rd rs : Reg) (imm : Int) (s : State) : Host.Outcome State Fault Refusal :=
  settle s (addiEffects rd rs imm s)

end Sys2Proof.Machine
end

