-- ==== Sys2Proof/Machine/Branch.lean ====
section
/-! DEFINITION. The eight variants of BR, opcode class 0000 (44_control.md R220 to R222). -/

namespace Sys2Proof.Machine

open Sys2Proof

/-- NOP: BR with condition field 000 (R221, R222). -/
def nopEffects (off : Int) (s : State) : Except Fault Effects :=
  branchEffects s { n := false, z := false, p := false } off

/-- The meaning of NOP. -/
def execNop (off : Int) (s : State) : Host.Outcome State Fault Refusal :=
  settle s (nopEffects off s)

/-- BRp: BR with condition field 001 (R221, R222). -/
def brpEffects (off : Int) (s : State) : Except Fault Effects :=
  branchEffects s { n := false, z := false, p := true } off

/-- The meaning of BRp. -/
def execBrp (off : Int) (s : State) : Host.Outcome State Fault Refusal :=
  settle s (brpEffects off s)

/-- BRz: BR with condition field 010 (R221, R222). -/
def brzEffects (off : Int) (s : State) : Except Fault Effects :=
  branchEffects s { n := false, z := true, p := false } off

/-- The meaning of BRz. -/
def execBrz (off : Int) (s : State) : Host.Outcome State Fault Refusal :=
  settle s (brzEffects off s)

/-- BRzp: BR with condition field 011 (R221, R222). -/
def brzpEffects (off : Int) (s : State) : Except Fault Effects :=
  branchEffects s { n := false, z := true, p := true } off

/-- The meaning of BRzp. -/
def execBrzp (off : Int) (s : State) : Host.Outcome State Fault Refusal :=
  settle s (brzpEffects off s)

/-- BRn: BR with condition field 100 (R221, R222). -/
def brnEffects (off : Int) (s : State) : Except Fault Effects :=
  branchEffects s { n := true, z := false, p := false } off

/-- The meaning of BRn. -/
def execBrn (off : Int) (s : State) : Host.Outcome State Fault Refusal :=
  settle s (brnEffects off s)

/-- BRnp: BR with condition field 101 (R221, R222). -/
def brnpEffects (off : Int) (s : State) : Except Fault Effects :=
  branchEffects s { n := true, z := false, p := true } off

/-- The meaning of BRnp. -/
def execBrnp (off : Int) (s : State) : Host.Outcome State Fault Refusal :=
  settle s (brnpEffects off s)

/-- BRnz: BR with condition field 110 (R221, R222). -/
def brnzEffects (off : Int) (s : State) : Except Fault Effects :=
  branchEffects s { n := true, z := true, p := false } off

/-- The meaning of BRnz. -/
def execBrnz (off : Int) (s : State) : Host.Outcome State Fault Refusal :=
  settle s (brnzEffects off s)

/-- BRnzp: BR with condition field 111 (R221, R222). -/
def brnzpEffects (off : Int) (s : State) : Except Fault Effects :=
  branchEffects s { n := true, z := true, p := true } off

/-- The meaning of BRnzp. -/
def execBrnzp (off : Int) (s : State) : Host.Outcome State Fault Refusal :=
  settle s (brnzpEffects off s)

end Sys2Proof.Machine
end

