-- ==== Sys2Proof/Machine/Compare.lean ====
section
/-! DEFINITION. The compares, opcode class 0010 (42_compare.md R200 to R203): they write only the flags, from the
exact comparison of two integers. -/

namespace Sys2Proof.Machine

open Sys2Proof

/-- CMP: both registers as signed (R200). -/
def cmpEffects (rs rt : Reg) (s : State) : Except Fault Effects :=
  compareEffects s (s.reg rs).toInt (s.reg rt).toInt

/-- The meaning of CMP. -/
def execCmp (rs rt : Reg) (s : State) : Host.Outcome State Fault Refusal :=
  settle s (cmpEffects rs rt s)

/-- CMPU: both registers as unsigned (R201). -/
def cmpuEffects (rs rt : Reg) (s : State) : Except Fault Effects :=
  compareEffects s (s.reg rs).toNat (s.reg rt).toNat

/-- The meaning of CMPU. -/
def execCmpu (rs rt : Reg) (s : State) : Host.Outcome State Fault Refusal :=
  settle s (cmpuEffects rs rt s)

/-- CMPI: the register and the sign-extended immediate as signed (R202). -/
def cmpiEffects (rs : Reg) (imm : Int) (s : State) : Except Fault Effects :=
  compareEffects s (s.reg rs).toInt (signedImm imm).toInt

/-- The meaning of CMPI. -/
def execCmpi (rs : Reg) (imm : Int) (s : State) : Host.Outcome State Fault Refusal :=
  settle s (cmpiEffects rs imm s)

/-- CMPIU: the register and the zero-extended immediate as unsigned (R203). -/
def cmpiuEffects (rs : Reg) (uimm : Nat) (s : State) : Except Fault Effects :=
  compareEffects s (s.reg rs).toNat (unsignedImm uimm).toNat

/-- The meaning of CMPIU. -/
def execCmpiu (rs : Reg) (uimm : Nat) (s : State) : Host.Outcome State Fault Refusal :=
  settle s (cmpiuEffects rs uimm s)

end Sys2Proof.Machine
end

