-- ==== Sys2Proof/Machine/Constant.lean ====
section
/-! DEFINITION. The constant instructions, opcode classes 1001 and 1101 (41_alu.md R174, R175). -/

namespace Sys2Proof.Machine

open Sys2Proof

/-- CONST: the sign-extended immediate, its flags when `NZP_ON_CONST` holds (R174). -/
def constEffects (rd : Reg) (imm : Int) (s : State) : Except Fault Effects :=
  writeRegEffects s rd (signedImm imm) (constFlags s.cfg (signedImm imm))

/-- The meaning of CONST. -/
def execConst (rd : Reg) (imm : Int) (s : State) : Host.Outcome State Fault Refusal :=
  settle s (constEffects rd imm s)

/-- HICONST: bits 15:8 replaced, bits 7:0 kept, its flags when `NZP_ON_CONST` holds (R175). -/
def hiconstEffects (rd : Reg) (uimm : Nat) (s : State) : Except Fault Effects :=
  writeRegEffects s rd (hiconstValue (s.reg rd) uimm) (constFlags s.cfg (hiconstValue (s.reg rd) uimm))

/-- The meaning of HICONST. -/
def execHiconst (rd : Reg) (uimm : Nat) (s : State) : Host.Outcome State Fault Refusal :=
  settle s (hiconstEffects rd uimm s)

end Sys2Proof.Machine
end

