-- ==== Sys2Proof/Machine/Jump.lean ====
section
/-! DEFINITION. Jumps and subroutine calls, opcode classes 1100 and 0100 (44_control.md R223 to R226). -/

namespace Sys2Proof.Machine

open Sys2Proof

/-- JMP: PC-relative (R223). -/
def jmpEffects (off : Int) (s : State) : Except Fault Effects :=
  jumpEffects s (relativeTarget s.pc off)

/-- The meaning of JMP. -/
def execJmp (off : Int) (s : State) : Host.Outcome State Fault Refusal :=
  settle s (jmpEffects off s)

/-- JMPR: register-indirect; R7 is not written (R224). -/
def jmprEffects (rs : Reg) (s : State) : Except Fault Effects :=
  jumpEffects s (s.reg rs)

/-- The meaning of JMPR. -/
def execJmpr (rs : Reg) (s : State) : Host.Outcome State Fault Refusal :=
  settle s (jmprEffects rs s)

/-- JSR: the target by `JSR_TARGET`, then the link write (R225). -/
def jsrEffects (raw : BitVec 11) (s : State) : Except Fault Effects :=
  callEffects s (jsrTarget s.cfg s.pc raw)

/-- The meaning of JSR. -/
def execJsr (raw : BitVec 11) (s : State) : Host.Outcome State Fault Refusal :=
  settle s (jsrEffects raw s)

/-- JSRR: the target is read before R7 is written (R226). -/
def jsrrEffects (rs : Reg) (s : State) : Except Fault Effects :=
  callEffects s (s.reg rs)

/-- The meaning of JSRR. -/
def execJsrr (rs : Reg) (s : State) : Host.Outcome State Fault Refusal :=
  settle s (jsrrEffects rs s)

end Sys2Proof.Machine
end

