-- ==== Sys2Proof/Machine/LoadStore.lean ====
section
/-! DEFINITION. Load and store, opcode classes 0110 and 0111 (43_load_store.md R210 to R213). -/

namespace Sys2Proof.Machine

open Sys2Proof

/-- LDR: the data check, then the word at the effective address and its flags (R211). -/
def ldrEffects (rd rs : Reg) (imm : Int) (s : State) : Except Fault Effects :=
  match checkData s (effectiveAddress (s.reg rs) imm) with
  | .ok _ => aluEffects s rd (s.mem.readWord (effectiveAddress (s.reg rs) imm))
  | .error e => .error e

/-- The meaning of LDR. -/
def execLdr (rd rs : Reg) (imm : Int) (s : State) : Host.Outcome State Fault Refusal :=
  settle s (ldrEffects rd rs imm s)

/-- STR: the data check, then the write of `x[rt]` at the effective address; no flag (R212). -/
def strEffects (rt rs : Reg) (imm : Int) (s : State) : Except Fault Effects :=
  match checkData s (effectiveAddress (s.reg rs) imm) with
  | .ok _ =>
    match advance s with
    | .ok t =>
      .ok { reg := none, flags := none, mem := some (effectiveAddress (s.reg rs) imm, s.reg rt),
            mode := none, pc := t }
    | .error e => .error e
  | .error e => .error e

/-- The meaning of STR. -/
def execStr (rt rs : Reg) (imm : Int) (s : State) : Host.Outcome State Fault Refusal :=
  settle s (strEffects rt rs imm s)

end Sys2Proof.Machine
end

