-- ==== Sys2Proof/Machine/Logic.lean ====
section
/-! DEFINITION. The logical instructions, opcode class 0101 (41_alu.md R165 to R169). -/

namespace Sys2Proof.Machine

open Sys2Proof

/-- AND (R165). -/
def andEffects (rd rs rt : Reg) (s : State) : Except Fault Effects :=
  aluEffects s rd (s.reg rs &&& s.reg rt)

/-- The meaning of AND. -/
def execAnd (rd rs rt : Reg) (s : State) : Host.Outcome State Fault Refusal :=
  settle s (andEffects rd rs rt s)

/-- NOT; field C is ignored (R166). -/
def notEffects (rd rs : Reg) (s : State) : Except Fault Effects :=
  aluEffects s rd (~~~ (s.reg rs))

/-- The meaning of NOT. -/
def execNot (rd rs : Reg) (s : State) : Host.Outcome State Fault Refusal :=
  settle s (notEffects rd rs s)

/-- OR (R167). -/
def orEffects (rd rs rt : Reg) (s : State) : Except Fault Effects :=
  aluEffects s rd (s.reg rs ||| s.reg rt)

/-- The meaning of OR. -/
def execOr (rd rs rt : Reg) (s : State) : Host.Outcome State Fault Refusal :=
  settle s (orEffects rd rs rt s)

/-- XOR (R168). -/
def xorEffects (rd rs rt : Reg) (s : State) : Except Fault Effects :=
  aluEffects s rd (s.reg rs ^^^ s.reg rt)

/-- The meaning of XOR. -/
def execXor (rd rs rt : Reg) (s : State) : Host.Outcome State Fault Refusal :=
  settle s (xorEffects rd rs rt s)

/-- ANDI: AND with the sign-extended immediate (R169). -/
def andiEffects (rd rs : Reg) (imm : Int) (s : State) : Except Fault Effects :=
  aluEffects s rd (s.reg rs &&& signedImm imm)

/-- The meaning of ANDI. -/
def execAndi (rd rs : Reg) (imm : Int) (s : State) : Host.Outcome State Fault Refusal :=
  settle s (andiEffects rd rs imm s)

end Sys2Proof.Machine
end

