-- ==== Sys2Proof/Machine/Shift.lean ====
section
/-! DEFINITION. The shifts and the modulo, opcode class 1010 (41_alu.md R170 to R173). -/

namespace Sys2Proof.Machine

open Sys2Proof

/-- SLL (R170). -/
def sllEffects (rd rs : Reg) (amount : Nat) (s : State) : Except Fault Effects :=
  aluEffects s rd (sllValue (s.reg rs) amount)

/-- The meaning of SLL. -/
def execSll (rd rs : Reg) (amount : Nat) (s : State) : Host.Outcome State Fault Refusal :=
  settle s (sllEffects rd rs amount s)

/-- SRA (R171). -/
def sraEffects (rd rs : Reg) (amount : Nat) (s : State) : Except Fault Effects :=
  aluEffects s rd (sraValue (s.reg rs) amount)

/-- The meaning of SRA. -/
def execSra (rd rs : Reg) (amount : Nat) (s : State) : Host.Outcome State Fault Refusal :=
  settle s (sraEffects rd rs amount s)

/-- SRL; its flags read the result as signed (R172). -/
def srlEffects (rd rs : Reg) (amount : Nat) (s : State) : Except Fault Effects :=
  aluEffects s rd (srlValue (s.reg rs) amount)

/-- The meaning of SRL. -/
def execSrl (rd rs : Reg) (amount : Nat) (s : State) : Host.Outcome State Fault Refusal :=
  settle s (srlEffects rd rs amount s)

/-- MOD: the remainder under `DIV_SIGNED`, 0 for a zero divisor, and its flags (R173). -/
def modEffects (rd rs rt : Reg) (s : State) : Except Fault Effects :=
  aluEffects s rd (modValue s.cfg (s.reg rs) (s.reg rt))

/-- The meaning of MOD. -/
def execMod (rd rs rt : Reg) (s : State) : Host.Outcome State Fault Refusal :=
  settle s (modEffects rd rs rt s)

end Sys2Proof.Machine
end

