-- ==== Sys2Proof/Machine/System.lean ====
section
/-! DEFINITION. The system instructions, opcode classes 1111 and 1000 (45_system.md R240, R241), and the three
reserved classes (30_encoding.md R106). -/

namespace Sys2Proof.Machine

open Sys2Proof

/-- TRAP: the trap entry (R240). -/
def trapEffects (vector : Nat) (s : State) : Except Fault Effects :=
  trapEntry s vector

/-- The meaning of TRAP. -/
def execTrap (vector : Nat) (s : State) : Host.Outcome State Fault Refusal :=
  settle s (trapEffects vector s)

/-- RTI: the trap return (R241). -/
def rtiEffects (s : State) : Except Fault Effects :=
  trapReturn s

/-- The meaning of RTI. -/
def execRti (s : State) : Host.Outcome State Fault Refusal :=
  settle s (rtiEffects s)

/-- 0x3000-0x3FFF: `InvalidInstruction` (R106). -/
def reserved3Effects (low : BitVec 12) (s : State) : Except Fault Effects :=
  invalidEffects s (encode (.reserved3 low))

/-- The meaning of a word of the reserved class 0011. -/
def execReserved3 (low : BitVec 12) (s : State) : Host.Outcome State Fault Refusal :=
  settle s (reserved3Effects low s)

/-- 0xB000-0xBFFF: `InvalidInstruction` (R106). -/
def reservedBEffects (low : BitVec 12) (s : State) : Except Fault Effects :=
  invalidEffects s (encode (.reservedB low))

/-- The meaning of a word of the reserved class 1011. -/
def execReservedB (low : BitVec 12) (s : State) : Host.Outcome State Fault Refusal :=
  settle s (reservedBEffects low s)

/-- 0xE000-0xEFFF: `InvalidInstruction` (R106). -/
def reservedEEffects (low : BitVec 12) (s : State) : Except Fault Effects :=
  invalidEffects s (encode (.reservedE low))

/-- The meaning of a word of the reserved class 1110. -/
def execReservedE (low : BitVec 12) (s : State) : Host.Outcome State Fault Refusal :=
  settle s (reservedEEffects low s)

end Sys2Proof.Machine
end

