-- ==== Sys2Proof/Machine/Step.lean ====
section
/-! DEFINITION. The step (40_step.md R140): fetch guard, fetch and decoding, then the meaning of the
instruction; and the state that holds a given instruction where the next step fetches it. -/

namespace Sys2Proof.Machine

open Sys2Proof

/-- One step (R7, R140). -/
def step (s : State) : Host.Outcome State Fault Refusal :=
  match fetch s with
  | .ok i => exec i s
  | .error f => .fault f

/-- `s` with the word of a row stored at `pc`, where `step` fetches: a host write (log entry 3). -/
def State.withFetchWord (s : State) (nbits w : Nat) : State :=
  { s with mem := s.mem.writeWord s.pc (BitVec.ofNat 16 (w % 2 ^ nbits)) }

end Sys2Proof.Machine
end

