-- ==== Sys2Proof/Machine/Linker.lean ====
section
/-! DEFINITION. The encoding contract of the linker, the part of it that is in scope (00_scope.md R5(b)): the
relocation formulas, the pseudo-instructions and the data directives (30_encoding.md R110 to R114). -/

namespace Sys2Proof.Machine

open Sys2Proof

/-- Why a label operand is refused (R110). -/
inductive RelocError where
  /-- The displacement or the page number is outside its field. -/
  | outOfRange
  /-- A JSR target that is no multiple of 16. -/
  | notAligned
deriving DecidableEq, Repr

/-- Why a load-constant or a literal directive is refused. -/
inductive LinkError where
  /-- The name is not in the constant table ("error if absent", R112). -/
  | absentName
  /-- A number outside its 16-bit range that a linker refuses (log entry 14). -/
  | refusedNumber
deriving DecidableEq, Repr

/-- "target − (this instruction's address + 1)", range-checked to `n` signed bits (R110). DESIGN CHOICE:
R110 does not say whether the difference is one of integers or modulo 2^16; the model takes the
addresses as the integers 0 to 65535, so that a displacement that would have to wrap is out of
range (log entry 13). -/
def relocRelative (n : Nat) (addr target : Word) : Except RelocError Int :=
  let d : Int := (target.toNat : Int) - ((addr.toNat : Int) + 1)
  if fitsSigned n d then .ok d else .error .outOfRange

/-- The offset of BR: 9 bits (R110). -/
def relocBranch (addr target : Word) : Except RelocError Int := relocRelative 9 addr target

/-- The offset of JMP: 11 bits (R110). -/
def relocJmp (addr target : Word) : Except RelocError Int := relocRelative 11 addr target

/-- The field of JSR: a multiple of 16, `target >> 4`, range-checked to 11 bits signed (R110). -/
def relocJsr (target : Word) : Except RelocError (BitVec 11) :=
  if target.toNat % 16 ≠ 0 then .error .notAligned
  else if fitsSigned 11 ((target.toNat / 16 : Nat) : Int) then
    .ok (BitVec.ofNat 11 (target.toNat / 16))
  else .error .outOfRange

/-- The immediate of CONST for a label: its low 9 bits (R110), as the signed number they encode. -/
def relocConst (target : Word) : Int := signedField 9 target

/-- The immediate of HICONST for a label: its bits 15:8 (R110). -/
def relocHiconst (target : Word) : Nat := (highByte target).toNat

/-- LEA Rd, label (R111). -/
def expandLea (rd : Reg) (label : Word) : List Instr :=
  [.const rd (relocConst label), .hiconst rd (relocHiconst label)]

/-- LC Rd, of a 16-bit value (R112): the HICONST is omitted when the high byte is 0x00 or 0xFF and the 9-bit CONST
reproduces the value. -/
def expandLc (rd : Reg) (v : Word) : List Instr :=
  if v.extractLsb' 8 8 = 0x00#8 ∨ v.extractLsb' 8 8 = 0xFF#8 then [.const rd (relocConst v)]
  else [.const rd (relocConst v), .hiconst rd (relocHiconst v)]

/-- The compile-time constant table (R112): names, as their bytes, and integer values, each name
once (log entry 15). -/
abbrev ConstantTable := List (List Byte × Int)

/-- The value of a name, "error if absent" (R112). -/
def lookupConstant : ConstantTable → List Byte → Except LinkError Int
  | [], _ => .error .absentName
  | (n, i) :: t, name => if n = name then .ok i else lookupConstant t name

/-- What a linker emits, where the spec leaves it open: words, or a refusal (log entry 14). -/
def openOutput : Option (List Word) → Except LinkError (List Word)
  | some ws => .ok ws
  | none => .error .refusedNumber

/-- LC Rd, NAME (R112): the name looked up, then the expansion of its value. A value outside
-32768 to 65535 is left open (log entry 14). -/
def expandLcNamed (rd : Reg) (table : ConstantTable) (name : List Byte) :
    Except LinkError (List Instr) :=
  match lookupConstant table name with
  | .error e => .error e
  | .ok i =>
    if -32768 ≤ i ∧ i ≤ 65535 then .ok (expandLc rd (BitVec.ofInt 16 i))
    else (openOutput (Config.wideConstant rd.bits i)).map (fun ws => ws.map decode)

/-- RET (R113). -/
def expandRet : List Instr := [.jmpr .r7]

/-- A "reserved zero-filled block of N words" (R114). -/
def blockWords (n : Nat) : List Word := List.replicate n 0

/-- "One literal signed 16-bit word" (R114). A number outside -32768 to 32767, of which the spec says
nothing, is left open (DESIGN CHOICE, log entry 14). -/
def fillWords (i : Int) : Except LinkError (List Word) :=
  if fitsSigned 16 i then .ok [BitVec.ofInt 16 i] else openOutput (Config.wideLiteral i)

/-- A string: each byte zero-extended into a word, then a zero word (R114). -/
def stringWords (bytes : List Byte) : List Word := bytes.map (fun b => b.zeroExtend 16) ++ [0]

end Sys2Proof.Machine
end

