-- ==== Sys2Proof/Machine/Boundary.lean ====
section
/-! DEFINITION. The block's boundary (00_scope.md R7): beside `step` it has `reset`, the read of `pc`, and host
writes of memory between steps. -/

namespace Sys2Proof.Machine

open Sys2Proof

/-- The `reset` operation (R290, R291): every piece of the block's state at its reset value, whatever the
history; the parameters of R11 stay, since they are arguments and not state (DEDUCED, log entry 7). -/
def hostReset (s : State) : State := { State.reset with cfg := s.cfg }

/-- The `pc` operation: a read without side effect (R7). -/
def hostPc (s : State) : Word := s.pc

/-- A host write of one memory word between steps (R7, R299): it writes nothing else (R296). -/
def hostWrite (s : State) (a v : Word) : State := { s with mem := s.mem.writeWord a v }

end Sys2Proof.Machine
end

