-- ==== Sys2Proof/Machine/Loader.lean ====
section
/-! DEFINITION. The loader as host interface (70_reset_and_hazards.md R296 to R298): object bytes to host writes of
memory. It touches nothing but memory. -/

namespace Sys2Proof.Machine

open Sys2Proof

/-- The record tags of R296. -/
def tagCode : Word := 0xCADE
def tagData : Word := 0xDADA
def tagSymbol : Word := 0xC3B7
def tagFile : Word := 0xF17E
def tagLine : Word := 0x715E

/-- The load-error kinds of R298; the last is the spec's own. -/
inductive LoadErrorKind where
  | truncatedStream
  | invalidUtf8
  | unrecognizedTag
  | addressOutOfRange
deriving DecidableEq, Repr

/-- `LoadError{kind, byte_offset}`: the offset of the start of the malformed record (R298). -/
structure LoadError where
  kind : LoadErrorKind
  byteOffset : Nat
deriving DecidableEq, Repr

/-- A record of the object file (R296): the three records that do not affect the block keep no payload here. -/
inductive ObjRecord where
  | code (address : Word) (words : List Word)
  | data (address : Word) (words : List Word)
  | symbol (address : Word) (name : List Byte)
  | file (name : List Byte)
  | line (address lineNumber fileIndex : Word)
deriving DecidableEq, Repr

/-- Read one big-endian word (R297). -/
def takeWord : List Byte → Except LoadErrorKind (Word × List Byte)
  | hi :: lo :: rest => .ok (wordOfBytes hi lo, rest)
  | _ => .error .truncatedStream

/-- Read `n` big-endian words. -/
def takeWords : Nat → List Byte → Except LoadErrorKind (List Word × List Byte)
  | 0, bs => .ok ([], bs)
  | n + 1, bs =>
    match takeWord bs with
    | .error e => .error e
    | .ok (w, rest) =>
      match takeWords n rest with
      | .error e => .error e
      | .ok (ws, rest') => .ok (w :: ws, rest')

/-- Read `k` name bytes, with no padding (R297). -/
def takeBytes : Nat → List Byte → Except LoadErrorKind (List Byte × List Byte)
  | 0, bs => .ok ([], bs)
  | _ + 1, [] => .error .truncatedStream
  | k + 1, b :: bs =>
    match takeBytes k bs with
    | .error e => .error e
    | .ok (name, rest) => .ok (b :: name, rest)

/-- Is a byte string UTF-8? `need` continuation bytes are outstanding and the next one lies in `lo`
to `hi`. PRESUMED: the well-formed byte sequences of the Unicode standard (log entry 6). -/
def utf8Scan : Nat → Byte → Byte → List Byte → Bool
  | 0, _, _, [] => true
  | _ + 1, _, _, [] => false
  | 0, _, _, b :: bs =>
    if b ≤ 0x7F then utf8Scan 0 0x80 0xBF bs
    else if 0xC2 ≤ b ∧ b ≤ 0xDF then utf8Scan 1 0x80 0xBF bs
    else if b = 0xE0 then utf8Scan 2 0xA0 0xBF bs
    else if b = 0xED then utf8Scan 2 0x80 0x9F bs
    else if 0xE1 ≤ b ∧ b ≤ 0xEF then utf8Scan 2 0x80 0xBF bs
    else if b = 0xF0 then utf8Scan 3 0x90 0xBF bs
    else if 0xF1 ≤ b ∧ b ≤ 0xF3 then utf8Scan 3 0x80 0xBF bs
    else if b = 0xF4 then utf8Scan 3 0x80 0x8F bs
    else false
  | n + 1, lo, hi, b :: bs => decide (lo ≤ b ∧ b ≤ hi) && utf8Scan n 0x80 0xBF bs

/-- The payload of a Code or Data record: refused whole when it would pass address 0xFFFF (R298);
truncation is reported first (DESIGN CHOICE, log entry 5). -/
def takeImage (bs : List Byte) : Except LoadErrorKind (Word × List Word × List Byte) :=
  match takeWord bs with
  | .error e => .error e
  | .ok (address, rest) =>
    match takeWord rest with
    | .error e => .error e
    | .ok (n, rest') =>
      match takeWords n.toNat rest' with
      | .error e => .error e
      | .ok (ws, rest'') =>
        if address.toNat + n.toNat > 65536 then .error .addressOutOfRange
        else .ok (address, ws, rest'')

/-- A name: its byte length, then that many bytes (R296, R297). -/
def takeName (bs : List Byte) : Except LoadErrorKind (List Byte × List Byte) :=
  match takeWord bs with
  | .error e => .error e
  | .ok (k, rest) => takeBytes k.toNat rest

/-- Read one record and give back the rest of the buffer (R296 to R298). -/
def takeRecord (bs : List Byte) : Except LoadErrorKind (ObjRecord × List Byte) :=
  match takeWord bs with
  | .error e => .error e
  | .ok (tag, rest) =>
    if tag = tagCode then
      match takeImage rest with
      | .error e => .error e
      | .ok (address, ws, rest') => .ok (.code address ws, rest')
    else if tag = tagData then
      match takeImage rest with
      | .error e => .error e
      | .ok (address, ws, rest') => .ok (.data address ws, rest')
    else if tag = tagSymbol then
      match takeWord rest with
      | .error e => .error e
      | .ok (address, rest') =>
        match takeName rest' with
        | .error e => .error e
        | .ok (name, rest'') =>
          if utf8Scan 0 0x80 0xBF name then .ok (.symbol address name, rest'')
          else .error .invalidUtf8
    else if tag = tagFile then
      match takeName rest with
      | .error e => .error e
      | .ok (name, rest') => .ok (.file name, rest')
    else if tag = tagLine then
      match takeWord rest with
      | .error e => .error e
      | .ok (address, rest') =>
        match takeWord rest' with
        | .error e => .error e
        | .ok (lineNumber, rest'') =>
          match takeWord rest'' with
          | .error e => .error e
          | .ok (fileIndex, rest''') => .ok (.line address lineNumber fileIndex, rest''')
    else .error .unrecognizedTag

/-- Host writes of consecutive words: `M[address + i] <- word i` (R296). -/
def loadWords (s : State) (address : Word) : List Word → State
  | [] => s
  | w :: ws => loadWords (hostWrite s address w) (address + 1) ws

/-- The effect of a record on the block (R296): Code and Data write memory, the others nothing. -/
def applyRecord (s : State) : ObjRecord → State
  | .code address ws => loadWords s address ws
  | .data address ws => loadWords s address ws
  | .symbol _ _ => s
  | .file _ => s
  | .line _ _ _ => s

/-- Load records until the end of the buffer or the first malformed one; the records before it stay
loaded (R298). `fuel` bounds the number of records; a buffer of n bytes holds at most n. -/
def loadRecords : Nat → Nat → List Byte → State → State × Option LoadError
  | 0, _, _, s => (s, none)
  | _ + 1, _, [], s => (s, none)
  | fuel + 1, offset, b :: bs, s =>
    match takeRecord (b :: bs) with
    | .error k => (s, some { kind := k, byteOffset := offset })
    | .ok (r, rest) =>
      loadRecords fuel (offset + ((b :: bs).length - rest.length)) rest (applyRecord s r)

/-- Load an object file (R296 to R298). -/
def load (bytes : List Byte) (s : State) : State × Option LoadError :=
  loadRecords bytes.length 0 bytes s

end Sys2Proof.Machine
end

