-- ==== Sys2Proof/Machine/Trace.lean ====
section
/-! DEFINITION. The trace record of 60_exceptions.md R270: an output of a successful step, which never changes
state (00_scope.md R9). -/

namespace Sys2Proof.Machine

open Sys2Proof

/-- The effects record of each instruction (R144), the one its meaning commits. -/
def effectsOf (i : Instr) (s : State) : Except Fault Effects :=
  match i with
  | .nop off => nopEffects off s
  | .brp off => brpEffects off s
  | .brz off => brzEffects off s
  | .brzp off => brzpEffects off s
  | .brn off => brnEffects off s
  | .brnp off => brnpEffects off s
  | .brnz off => brnzEffects off s
  | .brnzp off => brnzpEffects off s
  | .add rd rs rt => addEffects rd rs rt s
  | .mul rd rs rt => mulEffects rd rs rt s
  | .sub rd rs rt => subEffects rd rs rt s
  | .div rd rs rt => divEffects rd rs rt s
  | .addi rd rs imm => addiEffects rd rs imm s
  | .cmp rs rt => cmpEffects rs rt s
  | .cmpu rs rt => cmpuEffects rs rt s
  | .cmpi rs imm => cmpiEffects rs imm s
  | .cmpiu rs uimm => cmpiuEffects rs uimm s
  | .jsrr rs => jsrrEffects rs s
  | .jsr raw => jsrEffects raw s
  | .and rd rs rt => andEffects rd rs rt s
  | .not rd rs => notEffects rd rs s
  | .or rd rs rt => orEffects rd rs rt s
  | .xor rd rs rt => xorEffects rd rs rt s
  | .andi rd rs imm => andiEffects rd rs imm s
  | .ldr rd rs imm => ldrEffects rd rs imm s
  | .str rt rs imm => strEffects rt rs imm s
  | .rti => rtiEffects s
  | .const rd imm => constEffects rd imm s
  | .sll rd rs amount => sllEffects rd rs amount s
  | .sra rd rs amount => sraEffects rd rs amount s
  | .srl rd rs amount => srlEffects rd rs amount s
  | .mod rd rs rt => modEffects rd rs rt s
  | .jmpr rs => jmprEffects rs s
  | .jmp off => jmpEffects off s
  | .hiconst rd uimm => hiconstEffects rd uimm s
  | .trap vector => trapEffects vector s
  | .reserved3 low => reserved3Effects low s
  | .reservedB low => reservedBEffects low s
  | .reservedE low => reservedEEffects low s

/-- The fields of R270, with the widths of its table. -/
structure TraceRecord where
  pc : Word
  insn : Word
  weFlags : Bool
  weReg : Bool
  weMem : Bool
  regIndex : BitVec 3
  regValue : Word
  nzp : BitVec 3
  memAddr : Word
  memValue : Word
deriving DecidableEq, Repr

/-- The memory address and word an instruction touches: of LDR and STR, and of no other (R270). -/
def touched (s : State) : Instr → Option (Word × Word)
  | .ldr _ rs imm =>
    some (effectiveAddress (s.reg rs) imm, s.mem.readWord (effectiveAddress (s.reg rs) imm))
  | .str rt rs imm => some (effectiveAddress (s.reg rs) imm, s.reg rt)
  | _ => none

/-- The record of an instruction with these effects; an absent field is 0 (R270). -/
def traceRecord (s : State) (i : Instr) (e : Effects) : TraceRecord :=
  { pc := s.pc
    insn := s.mem.readWord s.pc
    weFlags := e.flags.isSome
    weReg := e.reg.isSome
    weMem := e.mem.isSome
    regIndex := match e.reg with
      | some (r, _) => r.bits
      | none => 0
    regValue := match e.reg with
      | some (_, v) => v
      | none => 0
    nzp := match e.flags with
      | some f => f.bits
      | none => 0
    memAddr := match touched s i with
      | some (a, _) => a
      | none => 0
    memValue := match touched s i with
      | some (_, v) => v
      | none => 0 }

/-- The record of the step from `s`: none when the step ends in an execution error (R270). -/
def stepTrace (s : State) : Option TraceRecord :=
  match fetch s with
  | .ok i =>
    match effectsOf i s with
    | .ok e => some (traceRecord s i e)
    | .error _ => none
  | .error _ => none

end Sys2Proof.Machine
end

