-- ==== Sys2Proof/Safety.lean ====
section
/-! DEFINITION. The terms claims are stated in: the legal states of the machine, and the shapes a step's result
can have, each naming every piece of state and saying what it holds afterwards. They are written
from the spec's rules and do not call the operations the meanings are made of. -/

namespace Sys2Proof.Machine

open Sys2Proof

/-- An address in one of the two code regions, by R65's own bounds. -/
abbrev CodeAddress (a : Word) : Prop :=
  a.toNat < 0x2000 ∨ (0x8000 ≤ a.toNat ∧ a.toNat < 0xA000)

/-- An address at or above 0x8000, which R67 guards in user mode. -/
abbrev OsAddress (a : Word) : Prop := 0x8000 ≤ a.toNat

/-- Exactly one flag is set (R41). -/
abbrev OneHot (f : Nzp) : Prop :=
  f = { n := true, z := false, p := false } ∨ f = { n := false, z := true, p := false } ∨
    f = { n := false, z := false, p := true }

/-- What every step keeps: `pc` is a code address (R38), exactly one flag is set (R41), and memory is in
its one canonical form. -/
abbrev State.Inv (s : State) : Prop :=
  CodeAddress s.pc ∧ OneHot s.psr.nzp ∧ Memory.wf s.mem

/-- The flags of a 16-bit result, as R147 words them. -/
def flagsOfWord (v : Word) : Nzp :=
  if v = 0#16 then { n := false, z := true, p := false }
  else if v.toNat < 0x8000 then { n := false, z := false, p := true }
  else { n := true, z := false, p := false }

/-- The flags of a comparison, as R148 words them. -/
def flagsOfOrder (a b : Int) : Nzp :=
  if a < b then { n := true, z := false, p := false }
  else if a = b then { n := false, z := true, p := false }
  else { n := false, z := false, p := true }

/-- A memory access of LDR or STR at `a` that R67 lets happen. -/
abbrev DataAllowed (s : State) (a : Word) : Prop :=
  ¬ (OsAddress a ∧ s.psr.mode = .user) ∧ ¬ (s.cfg.userCodeDataFault = true ∧ a.toNat < 0x2000)

/-- Memory reads the same, cell by cell. -/
abbrev SameMemory (s t : State) : Prop := ∀ k, t.mem.readByte k = s.mem.readByte k

/-- Every register but `r` is unchanged, and `r` holds `v`. -/
abbrev OnlyRegister (s t : State) (r : Reg) (v : Word) : Prop :=
  ∀ q, t.reg q = if q = r then v else s.reg q

/-- Every register is unchanged. -/
abbrev SameRegisters (s t : State) : Prop := ∀ q, t.reg q = s.reg q

/-- From `s` to `t` the machine advanced by one word, wrote `v` to register `r`, left the flags at
`f`, and changed nothing else. -/
structure RegisterStep (s t : State) (r : Reg) (v : Word) (f : Nzp) : Prop where
  pc : t.pc = s.pc + 1#16
  regs : OnlyRegister s t r v
  flags : t.psr.nzp = f
  mode : t.psr.mode = s.psr.mode
  memory : SameMemory s t
  config : t.cfg = s.cfg

/-- From `s` to `t` the machine advanced by one word, left the flags at `f`, and changed nothing
else. -/
structure FlagStep (s t : State) (f : Nzp) : Prop where
  pc : t.pc = s.pc + 1#16
  regs : SameRegisters s t
  flags : t.psr.nzp = f
  mode : t.psr.mode = s.psr.mode
  memory : SameMemory s t
  config : t.cfg = s.cfg

/-- From `s` to `t` the machine advanced by one word, stored `v` at word address `a`, and changed
nothing else: every cell but the two of that word reads as before. -/
structure StoreStep (s t : State) (a v : Word) : Prop where
  pc : t.pc = s.pc + 1#16
  regs : SameRegisters s t
  psr : t.psr = s.psr
  stored : t.mem.readWord a = v
  memory : ∀ k, k ≠ highKey a → k ≠ lowKey a → t.mem.readByte k = s.mem.readByte k
  config : t.cfg = s.cfg

/-- From `s` to `t` only `pc` changed, to `target`. -/
structure JumpStep (s t : State) (target : Word) : Prop where
  pc : t.pc = target
  regs : SameRegisters s t
  psr : t.psr = s.psr
  memory : SameMemory s t
  config : t.cfg = s.cfg

/-- From `s` to `t` control went to `target` in mode `m`, R7 holds `pc + 1`, the flags are those of
`pc + 1` when `NZP_ON_LINK` holds and unchanged otherwise, and nothing else changed. -/
structure LinkStep (s t : State) (target : Word) (m : Mode) : Prop where
  pc : t.pc = target
  regs : OnlyRegister s t .r7 (s.pc + 1#16)
  flags : t.psr.nzp = if s.cfg.nzpOnLink then flagsOfWord (s.pc + 1#16) else s.psr.nzp
  mode : t.psr.mode = m
  memory : SameMemory s t
  config : t.cfg = s.cfg

/-- From `s` to `t` control went to the address in R7 in user mode, and nothing else changed. -/
structure ReturnStep (s t : State) : Prop where
  pc : t.pc = s.reg .r7
  regs : SameRegisters s t
  flags : t.psr.nzp = s.psr.nzp
  mode : t.psr.mode = .user
  memory : SameMemory s t
  config : t.cfg = s.cfg

/-- The branch condition of R220, from the bits n, z, p of the condition field. -/
abbrev BranchCondition (c : BitVec 3) (f : Nzp) : Prop :=
  (c.getLsbD 2 = true ∧ f.n = true) ∨ (c.getLsbD 1 = true ∧ f.z = true) ∨
    (c.getLsbD 0 = true ∧ f.p = true)

/-- The condition field of the eight variants of BR (R94); no other instruction has one. -/
def branchField : Instr → Option (BitVec 3)
  | .nop _ => some 0b000#3
  | .brp _ => some 0b001#3
  | .brz _ => some 0b010#3
  | .brzp _ => some 0b011#3
  | .brn _ => some 0b100#3
  | .brnp _ => some 0b101#3
  | .brnz _ => some 0b110#3
  | .brnzp _ => some 0b111#3
  | .add _ _ _ => none
  | .mul _ _ _ => none
  | .sub _ _ _ => none
  | .div _ _ _ => none
  | .addi _ _ _ => none
  | .cmp _ _ => none
  | .cmpu _ _ => none
  | .cmpi _ _ => none
  | .cmpiu _ _ => none
  | .jsrr _ => none
  | .jsr _ => none
  | .and _ _ _ => none
  | .not _ _ => none
  | .or _ _ _ => none
  | .xor _ _ _ => none
  | .andi _ _ _ => none
  | .ldr _ _ _ => none
  | .str _ _ _ => none
  | .rti => none
  | .const _ _ => none
  | .sll _ _ _ => none
  | .sra _ _ _ => none
  | .srl _ _ _ => none
  | .mod _ _ _ => none
  | .jmpr _ => none
  | .jmp _ => none
  | .hiconst _ _ => none
  | .trap _ => none
  | .reserved3 _ => none
  | .reservedB _ => none
  | .reservedE _ => none

/-- The register an instruction writes (the table of R33). -/
def destination : Instr → Option Reg
  | .nop _ => none
  | .brp _ => none
  | .brz _ => none
  | .brzp _ => none
  | .brn _ => none
  | .brnp _ => none
  | .brnz _ => none
  | .brnzp _ => none
  | .add rd _ _ => some rd
  | .mul rd _ _ => some rd
  | .sub rd _ _ => some rd
  | .div rd _ _ => some rd
  | .addi rd _ _ => some rd
  | .cmp _ _ => none
  | .cmpu _ _ => none
  | .cmpi _ _ => none
  | .cmpiu _ _ => none
  | .jsrr _ => some .r7
  | .jsr _ => some .r7
  | .and rd _ _ => some rd
  | .not rd _ => some rd
  | .or rd _ _ => some rd
  | .xor rd _ _ => some rd
  | .andi rd _ _ => some rd
  | .ldr rd _ _ => some rd
  | .str _ _ _ => none
  | .rti => none
  | .const rd _ => some rd
  | .sll rd _ _ => some rd
  | .sra rd _ _ => some rd
  | .srl rd _ _ => some rd
  | .mod rd _ _ => some rd
  | .jmpr _ => none
  | .jmp _ => none
  | .hiconst rd _ => some rd
  | .trap _ => some .r7
  | .reserved3 _ => none
  | .reservedB _ => none
  | .reservedE _ => none

/-- Does the instruction write the flags under these parameters (the list of R42)? -/
def writesFlags (c : Config) : Instr → Bool
  | .nop _ => false
  | .brp _ => false
  | .brz _ => false
  | .brzp _ => false
  | .brn _ => false
  | .brnp _ => false
  | .brnz _ => false
  | .brnzp _ => false
  | .str _ _ _ => false
  | .jmp _ => false
  | .jmpr _ => false
  | .rti => false
  | .const _ _ => c.nzpOnConst
  | .hiconst _ _ => c.nzpOnConst
  | .jsr _ => c.nzpOnLink
  | .jsrr _ => c.nzpOnLink
  | .trap _ => c.nzpOnLink
  | .reserved3 _ => false
  | .reservedB _ => false
  | .reservedE _ => false
  | .add _ _ _ => true
  | .mul _ _ _ => true
  | .sub _ _ _ => true
  | .div _ _ _ => true
  | .addi _ _ _ => true
  | .cmp _ _ => true
  | .cmpu _ _ => true
  | .cmpi _ _ => true
  | .cmpiu _ _ => true
  | .and _ _ _ => true
  | .not _ _ => true
  | .or _ _ _ => true
  | .xor _ _ _ => true
  | .andi _ _ _ => true
  | .ldr _ _ _ => true
  | .sll _ _ _ => true
  | .sra _ _ _ => true
  | .srl _ _ _ => true
  | .mod _ _ _ => true

/-- The address STR stores to; no other instruction writes memory (R144, R212). -/
def storeAddress (s : State) : Instr → Option Word
  | .str _ rs imm => some (effectiveAddress (s.reg rs) imm)
  | .nop _ => none
  | .brp _ => none
  | .brz _ => none
  | .brzp _ => none
  | .brn _ => none
  | .brnp _ => none
  | .brnz _ => none
  | .brnzp _ => none
  | .add _ _ _ => none
  | .mul _ _ _ => none
  | .sub _ _ _ => none
  | .div _ _ _ => none
  | .addi _ _ _ => none
  | .cmp _ _ => none
  | .cmpu _ _ => none
  | .cmpi _ _ => none
  | .cmpiu _ _ => none
  | .jsrr _ => none
  | .jsr _ => none
  | .and _ _ _ => none
  | .not _ _ => none
  | .or _ _ _ => none
  | .xor _ _ _ => none
  | .andi _ _ _ => none
  | .ldr _ _ _ => none
  | .rti => none
  | .const _ _ => none
  | .sll _ _ _ => none
  | .sra _ _ _ => none
  | .srl _ _ _ => none
  | .mod _ _ _ => none
  | .jmpr _ => none
  | .jmp _ => none
  | .hiconst _ _ => none
  | .trap _ => none
  | .reserved3 _ => none
  | .reservedB _ => none
  | .reservedE _ => none

/-- Does the instruction end with the straight-line advance on some path (R142, R252)? -/
def mayAdvance : Instr → Bool
  | .jmp _ => false
  | .jmpr _ => false
  | .jsr _ => false
  | .jsrr _ => false
  | .trap _ => false
  | .rti => false
  | .reserved3 _ => false
  | .reservedB _ => false
  | .reservedE _ => false
  | .nop _ => true
  | .brp _ => true
  | .brz _ => true
  | .brzp _ => true
  | .brn _ => true
  | .brnp _ => true
  | .brnz _ => true
  | .brnzp _ => true
  | .add _ _ _ => true
  | .mul _ _ _ => true
  | .sub _ _ _ => true
  | .div _ _ _ => true
  | .addi _ _ _ => true
  | .cmp _ _ => true
  | .cmpu _ _ => true
  | .cmpi _ _ => true
  | .cmpiu _ _ => true
  | .and _ _ _ => true
  | .not _ _ => true
  | .or _ _ _ => true
  | .xor _ _ _ => true
  | .andi _ _ _ => true
  | .ldr _ _ _ => true
  | .str _ _ _ => true
  | .const _ _ => true
  | .sll _ _ _ => true
  | .sra _ _ _ => true
  | .srl _ _ _ => true
  | .mod _ _ _ => true
  | .hiconst _ _ => true

/-- Can the instruction raise `InvalidJump` (R251, R252)? NOP and TRAP cannot. -/
def mayRejectJump : Instr → Bool
  | .brp _ => true
  | .brz _ => true
  | .brzp _ => true
  | .brn _ => true
  | .brnp _ => true
  | .brnz _ => true
  | .brnzp _ => true
  | .jmp _ => true
  | .jmpr _ => true
  | .jsr _ => true
  | .jsrr _ => true
  | .rti => true
  | .nop _ => false
  | .add _ _ _ => false
  | .mul _ _ _ => false
  | .sub _ _ _ => false
  | .div _ _ _ => false
  | .addi _ _ _ => false
  | .cmp _ _ => false
  | .cmpu _ _ => false
  | .cmpi _ _ => false
  | .cmpiu _ _ => false
  | .and _ _ _ => false
  | .not _ _ => false
  | .or _ _ _ => false
  | .xor _ _ _ => false
  | .andi _ _ _ => false
  | .ldr _ _ _ => false
  | .str _ _ _ => false
  | .const _ _ => false
  | .sll _ _ _ => false
  | .sra _ _ _ => false
  | .srl _ _ _ => false
  | .mod _ _ _ => false
  | .hiconst _ _ => false
  | .trap _ => false
  | .reserved3 _ => false
  | .reservedB _ => false
  | .reservedE _ => false

/-- The effective address of LDR and STR; no other instruction accesses data (R63, R211, R212). -/
def dataAddress (s : State) : Instr → Option Word
  | .ldr _ rs imm => some (effectiveAddress (s.reg rs) imm)
  | .str _ rs imm => some (effectiveAddress (s.reg rs) imm)
  | .nop _ => none
  | .brp _ => none
  | .brz _ => none
  | .brzp _ => none
  | .brn _ => none
  | .brnp _ => none
  | .brnz _ => none
  | .brnzp _ => none
  | .add _ _ _ => none
  | .mul _ _ _ => none
  | .sub _ _ _ => none
  | .div _ _ _ => none
  | .addi _ _ _ => none
  | .cmp _ _ => none
  | .cmpu _ _ => none
  | .cmpi _ _ => none
  | .cmpiu _ _ => none
  | .jsrr _ => none
  | .jsr _ => none
  | .and _ _ _ => none
  | .not _ _ => none
  | .or _ _ _ => none
  | .xor _ _ _ => none
  | .andi _ _ _ => none
  | .rti => none
  | .const _ _ => none
  | .sll _ _ _ => none
  | .sra _ _ _ => none
  | .srl _ _ _ => none
  | .mod _ _ _ => none
  | .jmpr _ => none
  | .jmp _ => none
  | .hiconst _ _ => none
  | .trap _ => none
  | .reserved3 _ => none
  | .reservedB _ => none
  | .reservedE _ => none

/-- `s` in mode `m`. -/
def State.withMode (s : State) (m : Mode) : State := { s with psr := { s.psr with mode := m } }

/-- Two states that differ at most in the OS data region 0xA000-0xFFFF. -/
structure AgreeOutsideOsData (s t : State) : Prop where
  pc : t.pc = s.pc
  psr : t.psr = s.psr
  regs : t.regs = s.regs
  config : t.cfg = s.cfg
  memory : ∀ a : Word, a.toNat < 0xA000 → t.mem.readWord a = s.mem.readWord a

end Sys2Proof.Machine
end

