-- ==== Sys2Proof/Certificates/Slice0/Obligations.lean ====
section
/-! DEFINITION. The statements for the provers, from the numbered rules of spec/. Every statement about every
state holds for every value of the five parameters of 00_scope.md R11, which the state carries. -/

open Sys2Proof Sys2Proof.Machine

/-- ADD (R160): the encoding, the result, the flags, the frame, and the straight-line guard. -/
def Obligations.AddWritesTheSum : Prop :=
  ∀ (d a b : Reg) (s : State),
    decode (0b0001#4 ++ d.bits ++ a.bits ++ 0b000#3 ++ b.bits) = .add d a b ∧
    ∀ v : Word, v =
        s.reg a + s.reg b →
      (CodeAddress (s.pc + 1#16) →
        ∃ t, exec (.add d a b) s = .next t ∧ RegisterStep s t d v (flagsOfWord v)) ∧
      (¬ CodeAddress (s.pc + 1#16) →
        exec (.add d a b) s = .fault (.pcInReservedRange (s.pc + 1#16) s.pc))

/-- MUL (R161): the encoding, the result, the flags, the frame, and the straight-line guard. -/
def Obligations.MulWritesTheLowProduct : Prop :=
  ∀ (d a b : Reg) (s : State),
    decode (0b0001#4 ++ d.bits ++ a.bits ++ 0b001#3 ++ b.bits) = .mul d a b ∧
    ∀ v : Word, v =
        BitVec.ofNat 16 ((s.reg a).toNat * (s.reg b).toNat) →
      (CodeAddress (s.pc + 1#16) →
        ∃ t, exec (.mul d a b) s = .next t ∧ RegisterStep s t d v (flagsOfWord v)) ∧
      (¬ CodeAddress (s.pc + 1#16) →
        exec (.mul d a b) s = .fault (.pcInReservedRange (s.pc + 1#16) s.pc))

/-- SUB (R162): the encoding, the result, the flags, the frame, and the straight-line guard. -/
def Obligations.SubWritesTheDifference : Prop :=
  ∀ (d a b : Reg) (s : State),
    decode (0b0001#4 ++ d.bits ++ a.bits ++ 0b010#3 ++ b.bits) = .sub d a b ∧
    ∀ v : Word, v =
        s.reg a - s.reg b →
      (CodeAddress (s.pc + 1#16) →
        ∃ t, exec (.sub d a b) s = .next t ∧ RegisterStep s t d v (flagsOfWord v)) ∧
      (¬ CodeAddress (s.pc + 1#16) →
        exec (.sub d a b) s = .fault (.pcInReservedRange (s.pc + 1#16) s.pc))

/-- DIV (R163): the encoding, the result, the flags, the frame, and the straight-line guard. -/
def Obligations.DivWritesTheQuotient : Prop :=
  ∀ (d a b : Reg) (s : State),
    decode (0b0001#4 ++ d.bits ++ a.bits ++ 0b011#3 ++ b.bits) = .div d a b ∧
    ∀ v : Word, v =
        (if s.reg b = 0#16 then 0#16
         else if s.cfg.divSigned then BitVec.ofInt 16 ((s.reg a).toInt.tdiv (s.reg b).toInt)
         else BitVec.ofNat 16 ((s.reg a).toNat / (s.reg b).toNat)) →
      (CodeAddress (s.pc + 1#16) →
        ∃ t, exec (.div d a b) s = .next t ∧ RegisterStep s t d v (flagsOfWord v)) ∧
      (¬ CodeAddress (s.pc + 1#16) →
        exec (.div d a b) s = .fault (.pcInReservedRange (s.pc + 1#16) s.pc))

/-- ADDI (R164): the encoding, the result, the flags, the frame, and the straight-line guard. -/
def Obligations.AddiAddsTheSignedImmediate : Prop :=
  ∀ (d a : Reg) (imm : BitVec 5) (s : State),
    decode (0b0001#4 ++ d.bits ++ a.bits ++ 0b1#1 ++ imm) = .addi d a imm.toInt ∧
    ∀ v : Word, v =
        s.reg a + imm.signExtend 16 →
      (CodeAddress (s.pc + 1#16) →
        ∃ t, exec (.addi d a imm.toInt) s = .next t ∧ RegisterStep s t d v (flagsOfWord v)) ∧
      (¬ CodeAddress (s.pc + 1#16) →
        exec (.addi d a imm.toInt) s = .fault (.pcInReservedRange (s.pc + 1#16) s.pc))

/-- AND (R165): the encoding, the result, the flags, the frame, and the straight-line guard. -/
def Obligations.AndWritesTheConjunction : Prop :=
  ∀ (d a b : Reg) (s : State),
    decode (0b0101#4 ++ d.bits ++ a.bits ++ 0b000#3 ++ b.bits) = .and d a b ∧
    ∀ v : Word, v =
        s.reg a &&& s.reg b →
      (CodeAddress (s.pc + 1#16) →
        ∃ t, exec (.and d a b) s = .next t ∧ RegisterStep s t d v (flagsOfWord v)) ∧
      (¬ CodeAddress (s.pc + 1#16) →
        exec (.and d a b) s = .fault (.pcInReservedRange (s.pc + 1#16) s.pc))

/-- NOT (R166): the encoding, the result, the flags, the frame, and the straight-line guard. -/
def Obligations.NotWritesTheComplement : Prop :=
  ∀ (d a : Reg) (x : BitVec 3) (s : State),
    decode (0b0101#4 ++ d.bits ++ a.bits ++ 0b001#3 ++ x) = .not d a ∧
    ∀ v : Word, v =
        ~~~ (s.reg a) →
      (CodeAddress (s.pc + 1#16) →
        ∃ t, exec (.not d a) s = .next t ∧ RegisterStep s t d v (flagsOfWord v)) ∧
      (¬ CodeAddress (s.pc + 1#16) →
        exec (.not d a) s = .fault (.pcInReservedRange (s.pc + 1#16) s.pc))

/-- OR (R167): the encoding, the result, the flags, the frame, and the straight-line guard. -/
def Obligations.OrWritesTheDisjunction : Prop :=
  ∀ (d a b : Reg) (s : State),
    decode (0b0101#4 ++ d.bits ++ a.bits ++ 0b010#3 ++ b.bits) = .or d a b ∧
    ∀ v : Word, v =
        s.reg a ||| s.reg b →
      (CodeAddress (s.pc + 1#16) →
        ∃ t, exec (.or d a b) s = .next t ∧ RegisterStep s t d v (flagsOfWord v)) ∧
      (¬ CodeAddress (s.pc + 1#16) →
        exec (.or d a b) s = .fault (.pcInReservedRange (s.pc + 1#16) s.pc))

/-- XOR (R168): the encoding, the result, the flags, the frame, and the straight-line guard. -/
def Obligations.XorWritesTheExclusiveOr : Prop :=
  ∀ (d a b : Reg) (s : State),
    decode (0b0101#4 ++ d.bits ++ a.bits ++ 0b011#3 ++ b.bits) = .xor d a b ∧
    ∀ v : Word, v =
        s.reg a ^^^ s.reg b →
      (CodeAddress (s.pc + 1#16) →
        ∃ t, exec (.xor d a b) s = .next t ∧ RegisterStep s t d v (flagsOfWord v)) ∧
      (¬ CodeAddress (s.pc + 1#16) →
        exec (.xor d a b) s = .fault (.pcInReservedRange (s.pc + 1#16) s.pc))

/-- ANDI (R169): the encoding, the result, the flags, the frame, and the straight-line guard. -/
def Obligations.AndiMasksWithTheSignedImmediate : Prop :=
  ∀ (d a : Reg) (imm : BitVec 5) (s : State),
    decode (0b0101#4 ++ d.bits ++ a.bits ++ 0b1#1 ++ imm) = .andi d a imm.toInt ∧
    ∀ v : Word, v =
        s.reg a &&& imm.signExtend 16 →
      (CodeAddress (s.pc + 1#16) →
        ∃ t, exec (.andi d a imm.toInt) s = .next t ∧ RegisterStep s t d v (flagsOfWord v)) ∧
      (¬ CodeAddress (s.pc + 1#16) →
        exec (.andi d a imm.toInt) s = .fault (.pcInReservedRange (s.pc + 1#16) s.pc))

/-- SLL (R170): the encoding, the result, the flags, the frame, and the straight-line guard. -/
def Obligations.SllShiftsZerosInFromTheRight : Prop :=
  ∀ (d a : Reg) (k : BitVec 4) (s : State),
    decode (0b1010#4 ++ d.bits ++ a.bits ++ 0b00#2 ++ k) = .sll d a k.toNat ∧
    ∀ v : Word, v =
        s.reg a <<< k.toNat →
      (CodeAddress (s.pc + 1#16) →
        ∃ t, exec (.sll d a k.toNat) s = .next t ∧ RegisterStep s t d v (flagsOfWord v)) ∧
      (¬ CodeAddress (s.pc + 1#16) →
        exec (.sll d a k.toNat) s = .fault (.pcInReservedRange (s.pc + 1#16) s.pc))

/-- SRA (R171): the encoding, the result, the flags, the frame, and the straight-line guard. -/
def Obligations.SraShiftsCopiesOfTheSignIn : Prop :=
  ∀ (d a : Reg) (k : BitVec 4) (s : State),
    decode (0b1010#4 ++ d.bits ++ a.bits ++ 0b01#2 ++ k) = .sra d a k.toNat ∧
    ∀ v : Word, v =
        (s.reg a).sshiftRight k.toNat →
      (CodeAddress (s.pc + 1#16) →
        ∃ t, exec (.sra d a k.toNat) s = .next t ∧ RegisterStep s t d v (flagsOfWord v)) ∧
      (¬ CodeAddress (s.pc + 1#16) →
        exec (.sra d a k.toNat) s = .fault (.pcInReservedRange (s.pc + 1#16) s.pc))

/-- SRL (R172): the encoding, the result, the flags, the frame, and the straight-line guard. -/
def Obligations.SrlShiftsZerosInFromTheLeft : Prop :=
  ∀ (d a : Reg) (k : BitVec 4) (s : State),
    decode (0b1010#4 ++ d.bits ++ a.bits ++ 0b10#2 ++ k) = .srl d a k.toNat ∧
    ∀ v : Word, v =
        s.reg a >>> k.toNat →
      (CodeAddress (s.pc + 1#16) →
        ∃ t, exec (.srl d a k.toNat) s = .next t ∧ RegisterStep s t d v (flagsOfWord v)) ∧
      (¬ CodeAddress (s.pc + 1#16) →
        exec (.srl d a k.toNat) s = .fault (.pcInReservedRange (s.pc + 1#16) s.pc))

/-- MOD (R173): the encoding, the result, the flags, the frame, and the straight-line guard. -/
def Obligations.ModWritesTheRemainder : Prop :=
  ∀ (d a b : Reg) (x : BitVec 1) (s : State),
    decode (0b1010#4 ++ d.bits ++ a.bits ++ 0b11#2 ++ x ++ b.bits) = .mod d a b ∧
    ∀ v : Word, v =
        (if s.reg b = 0#16 then 0#16
         else if s.cfg.divSigned then
           BitVec.ofInt 16 ((s.reg a).toInt - (s.reg b).toInt * (s.reg a).toInt.tdiv (s.reg b).toInt)
         else BitVec.ofNat 16 ((s.reg a).toNat % (s.reg b).toNat)) →
      (CodeAddress (s.pc + 1#16) →
        ∃ t, exec (.mod d a b) s = .next t ∧ RegisterStep s t d v (flagsOfWord v)) ∧
      (¬ CodeAddress (s.pc + 1#16) →
        exec (.mod d a b) s = .fault (.pcInReservedRange (s.pc + 1#16) s.pc))

/-- CONST (R174): the encoding, the result, the flags, the frame, and the straight-line guard. -/
def Obligations.ConstWritesTheSignedImmediate : Prop :=
  ∀ (d : Reg) (imm : BitVec 9) (s : State),
    decode (0b1001#4 ++ d.bits ++ imm) = .const d imm.toInt ∧
    ∀ v : Word, v =
        imm.signExtend 16 →
      (CodeAddress (s.pc + 1#16) →
        ∃ t, exec (.const d imm.toInt) s = .next t ∧ RegisterStep s t d v (if s.cfg.nzpOnConst then flagsOfWord v else s.psr.nzp)) ∧
      (¬ CodeAddress (s.pc + 1#16) →
        exec (.const d imm.toInt) s = .fault (.pcInReservedRange (s.pc + 1#16) s.pc))

/-- HICONST (R175): the encoding, the result, the flags, the frame, and the straight-line guard.
Basis: R175, which the spec marks as derived from R174 and R111. -/
def Obligations.HiconstReplacesTheHighByte : Prop :=
  ∀ (d : Reg) (x : BitVec 1) (u : BitVec 8) (s : State),
    decode (0b1101#4 ++ d.bits ++ x ++ u) = .hiconst d u.toNat ∧
    ∀ v : Word, v =
        (s.reg d &&& 0x00FF#16) ||| (u.setWidth 16 <<< 8) →
      (CodeAddress (s.pc + 1#16) →
        ∃ t, exec (.hiconst d u.toNat) s = .next t ∧ RegisterStep s t d v (if s.cfg.nzpOnConst then flagsOfWord v else s.psr.nzp)) ∧
      (¬ CodeAddress (s.pc + 1#16) →
        exec (.hiconst d u.toNat) s = .fault (.pcInReservedRange (s.pc + 1#16) s.pc))

/-- CMP (R200): the encoding, the exact comparison, the frame, and the straight-line guard. -/
def Obligations.CmpComparesSignedRegisters : Prop :=
  ∀ (a b : Reg) (x : BitVec 4) (s : State),
    decode (0b0010#4 ++ a.bits ++ 0b00#2 ++ x ++ b.bits) = .cmp a b ∧
    (CodeAddress (s.pc + 1#16) →
      ∃ t, exec (.cmp a b) s = .next t ∧
        FlagStep s t (flagsOfOrder (s.reg a).toInt (s.reg b).toInt)) ∧
    (¬ CodeAddress (s.pc + 1#16) →
      exec (.cmp a b) s = .fault (.pcInReservedRange (s.pc + 1#16) s.pc))

/-- CMPU (R201): the encoding, the exact comparison, the frame, and the straight-line guard. -/
def Obligations.CmpuComparesUnsignedRegisters : Prop :=
  ∀ (a b : Reg) (x : BitVec 4) (s : State),
    decode (0b0010#4 ++ a.bits ++ 0b01#2 ++ x ++ b.bits) = .cmpu a b ∧
    (CodeAddress (s.pc + 1#16) →
      ∃ t, exec (.cmpu a b) s = .next t ∧
        FlagStep s t (flagsOfOrder (s.reg a).toNat (s.reg b).toNat)) ∧
    (¬ CodeAddress (s.pc + 1#16) →
      exec (.cmpu a b) s = .fault (.pcInReservedRange (s.pc + 1#16) s.pc))

/-- CMPI (R202): the encoding, the exact comparison, the frame, and the straight-line guard. -/
def Obligations.CmpiComparesTheSignedImmediate : Prop :=
  ∀ (a : Reg) (imm : BitVec 7) (s : State),
    decode (0b0010#4 ++ a.bits ++ 0b10#2 ++ imm) = .cmpi a imm.toInt ∧
    (CodeAddress (s.pc + 1#16) →
      ∃ t, exec (.cmpi a imm.toInt) s = .next t ∧
        FlagStep s t (flagsOfOrder (s.reg a).toInt imm.toInt)) ∧
    (¬ CodeAddress (s.pc + 1#16) →
      exec (.cmpi a imm.toInt) s = .fault (.pcInReservedRange (s.pc + 1#16) s.pc))

/-- CMPIU (R203): the encoding, the exact comparison, the frame, and the straight-line guard. -/
def Obligations.CmpiuComparesTheUnsignedImmediate : Prop :=
  ∀ (a : Reg) (u : BitVec 7) (s : State),
    decode (0b0010#4 ++ a.bits ++ 0b11#2 ++ u) = .cmpiu a u.toNat ∧
    (CodeAddress (s.pc + 1#16) →
      ∃ t, exec (.cmpiu a u.toNat) s = .next t ∧
        FlagStep s t (flagsOfOrder (s.reg a).toNat u.toNat)) ∧
    (¬ CodeAddress (s.pc + 1#16) →
      exec (.cmpiu a u.toNat) s = .fault (.pcInReservedRange (s.pc + 1#16) s.pc))

/-- LDR (R210, R211): the encoding, the effective address, the errors in their order, the result, the flags and the frame. -/
def Obligations.LdrLoadsTheAddressedWord : Prop :=
  ∀ (d b : Reg) (imm : BitVec 6) (s : State),
    decode (0b0110#4 ++ d.bits ++ b.bits ++ imm) = .ldr d b imm.toInt ∧
    effectiveAddress (s.reg b) imm.toInt = s.reg b + imm.signExtend 16 ∧
    ∀ ea : Word, ea = effectiveAddress (s.reg b) imm.toInt →
      (DataAllowed s ea → CodeAddress (s.pc + 1#16) →
        ∃ t, exec (.ldr d b imm.toInt) s = .next t ∧
          RegisterStep s t d (s.mem.readWord ea) (flagsOfWord (s.mem.readWord ea))) ∧
      (OsAddress ea → s.psr.mode = .user →
        exec (.ldr d b imm.toInt) s = .fault (.invalidMemoryAccess true s.pc)) ∧
      (s.cfg.userCodeDataFault = true → ea.toNat < 0x2000 →
        exec (.ldr d b imm.toInt) s = .fault (.invalidMemoryAccess false s.pc)) ∧
      (DataAllowed s ea → ¬ CodeAddress (s.pc + 1#16) →
        exec (.ldr d b imm.toInt) s = .fault (.pcInReservedRange (s.pc + 1#16) s.pc))

/-- STR (R212): the encoding, the effective address, the errors in their order, the store and the frame of memory. -/
def Obligations.StrStoresOneWord : Prop :=
  ∀ (a b : Reg) (imm : BitVec 6) (s : State),
    decode (0b0111#4 ++ a.bits ++ b.bits ++ imm) = .str a b imm.toInt ∧
    effectiveAddress (s.reg b) imm.toInt = s.reg b + imm.signExtend 16 ∧
    ∀ ea : Word, ea = effectiveAddress (s.reg b) imm.toInt →
      (DataAllowed s ea → CodeAddress (s.pc + 1#16) →
        ∃ t, exec (.str a b imm.toInt) s = .next t ∧ StoreStep s t ea (s.reg a)) ∧
      (OsAddress ea → s.psr.mode = .user →
        exec (.str a b imm.toInt) s = .fault (.invalidMemoryAccess true s.pc)) ∧
      (s.cfg.userCodeDataFault = true → ea.toNat < 0x2000 →
        exec (.str a b imm.toInt) s = .fault (.invalidMemoryAccess false s.pc)) ∧
      (DataAllowed s ea → ¬ CodeAddress (s.pc + 1#16) →
        exec (.str a b imm.toInt) s = .fault (.pcInReservedRange (s.pc + 1#16) s.pc))

/-- BR (R220, R221), all eight variants: the encoding, the condition, both outcomes and the frame. -/
def Obligations.BranchesFollowTheirCondition : Prop :=
  ∀ (imm : BitVec 9) (s : State),
    ∀ p ∈ [(Instr.nop imm.toInt, 0b000#3), (.brp imm.toInt, 0b001#3), (.brz imm.toInt, 0b010#3),
        (.brzp imm.toInt, 0b011#3), (.brn imm.toInt, 0b100#3), (.brnp imm.toInt, 0b101#3),
        (.brnz imm.toInt, 0b110#3), (.brnzp imm.toInt, 0b111#3)],
      decode (0b0000#4 ++ p.2 ++ imm) = p.1 ∧
      ∀ target : Word, target = s.pc + 1#16 + imm.signExtend 16 →
        (BranchCondition p.2 s.psr.nzp → CodeAddress target →
          ∃ t, exec p.1 s = .next t ∧ JumpStep s t target) ∧
        (BranchCondition p.2 s.psr.nzp → ¬ CodeAddress target →
          exec p.1 s = .fault (.invalidJump target s.pc)) ∧
        (¬ BranchCondition p.2 s.psr.nzp → CodeAddress (s.pc + 1#16) →
          ∃ t, exec p.1 s = .next t ∧ JumpStep s t (s.pc + 1#16)) ∧
        (¬ BranchCondition p.2 s.psr.nzp → ¬ CodeAddress (s.pc + 1#16) →
          exec p.1 s = .fault (.pcInReservedRange (s.pc + 1#16) s.pc))

/-- JMP (R223). -/
def Obligations.JmpGoesToItsRelativeTarget : Prop :=
  ∀ (imm : BitVec 11) (s : State),
    decode (0b1100#4 ++ 0b1#1 ++ imm) = .jmp imm.toInt ∧
    ∀ target : Word, target = s.pc + 1#16 + imm.signExtend 16 →
      (CodeAddress target → ∃ t, exec (.jmp imm.toInt) s = .next t ∧ JumpStep s t target) ∧
      (¬ CodeAddress target → exec (.jmp imm.toInt) s = .fault (.invalidJump target s.pc))

/-- JMPR (R224). -/
def Obligations.JmprGoesToItsRegister : Prop :=
  ∀ (a : Reg) (x : BitVec 2) (y : BitVec 6) (s : State),
    decode (0b1100#4 ++ 0b0#1 ++ x ++ a.bits ++ y) = .jmpr a ∧
    (CodeAddress (s.reg a) → ∃ t, exec (.jmpr a) s = .next t ∧ JumpStep s t (s.reg a)) ∧
    (¬ CodeAddress (s.reg a) → exec (.jmpr a) s = .fault (.invalidJump (s.reg a) s.pc))

/-- JSR (R225). -/
def Obligations.JsrLinksAndGoesToItsTarget : Prop :=
  ∀ (raw : BitVec 11) (s : State),
    decode (0b0100#4 ++ 0b1#1 ++ raw) = .jsr raw ∧
    ∀ target : Word, target =
        (match s.cfg.jsrTarget with
         | .abs => raw.signExtend 16 <<< 4
         | .page => (s.pc &&& 0x8000#16) ||| (raw.setWidth 16 <<< 4)) →
      (CodeAddress target →
        ∃ t, exec (.jsr raw) s = .next t ∧ LinkStep s t target s.psr.mode) ∧
      (¬ CodeAddress target → exec (.jsr raw) s = .fault (.invalidJump target s.pc))

/-- JSRR (R226). -/
def Obligations.JsrrLinksAndGoesToItsRegister : Prop :=
  ∀ (a : Reg) (x : BitVec 2) (y : BitVec 6) (s : State),
    decode (0b0100#4 ++ 0b0#1 ++ x ++ a.bits ++ y) = .jsrr a ∧
    (CodeAddress (s.reg a) →
      ∃ t, exec (.jsrr a) s = .next t ∧ LinkStep s t (s.reg a) s.psr.mode) ∧
    (¬ CodeAddress (s.reg a) → exec (.jsrr a) s = .fault (.invalidJump (s.reg a) s.pc))

/-- TRAP (R240). -/
def Obligations.TrapEntersItsVectorInOsMode : Prop :=
  ∀ (v : BitVec 8) (x : BitVec 4) (s : State),
    decode (0b1111#4 ++ x ++ v) = .trap v.toNat ∧
    ∃ t, exec (.trap v.toNat) s = .next t ∧ LinkStep s t (0x8000#16 ||| v.setWidth 16) .os

/-- RTI (R241). -/
def Obligations.RtiReturnsThroughR7InUserMode : Prop :=
  ∀ (x : BitVec 12) (s : State),
    decode (0b1000#4 ++ x) = .rti ∧
    (CodeAddress (s.reg .r7) → ∃ t, exec .rti s = .next t ∧ ReturnStep s t) ∧
    (¬ CodeAddress (s.reg .r7) → exec .rti s = .fault (.invalidJump (s.reg .r7) s.pc))

/-- The reserved encodings (R106), the stop of the three reserved constructors, and NOP. -/
def Obligations.ReservedWordsRaiseInvalidInstruction : Prop :=
  (∀ w : Word, (decode w).isReserved = true ↔
      w.extractLsb' 12 4 = 0b0011#4 ∨ w.extractLsb' 12 4 = 0b1011#4 ∨
        w.extractLsb' 12 4 = 0b1110#4) ∧
  (∀ (low : BitVec 12) (s : State),
    decode (0b0011#4 ++ low) = .reserved3 low ∧
    decode (0b1011#4 ++ low) = .reservedB low ∧
    decode (0b1110#4 ++ low) = .reservedE low ∧
    exec (.reserved3 low) s = .fault (.invalidInstruction (0b0011#4 ++ low) s.pc) ∧
    exec (.reservedB low) s = .fault (.invalidInstruction (0b1011#4 ++ low) s.pc) ∧
    exec (.reservedE low) s = .fault (.invalidInstruction (0b1110#4 ++ low) s.pc)) ∧
  (∀ s : State, CodeAddress s.pc → (decode (s.mem.readWord s.pc)).isReserved = true →
    step s = .fault (.invalidInstruction (s.mem.readWord s.pc) s.pc)) ∧
  decode 0x0000#16 = .nop 0 ∧
  (∀ (off off' : Int) (s : State), exec (.nop off) s = exec (.nop off') s)

/-- The step of R140 past its fetch guard: exec of the decoded instruction. -/
def Obligations.StepRunsTheDecodedInstruction : Prop :=
  ∀ (s : State) (i : Instr), CodeAddress s.pc → i.wf = true →
    (decode (wordOfBytes (s.mem.readByte (highKey s.pc)) (s.mem.readByte (lowKey s.pc))) = i →
      step s = exec i s) ∧
    (s.mem.readWord s.pc = encode i → step s = exec i s)

/-- The fetch guard of R141. -/
def Obligations.FetchGuardStopsAtNonCodeAddresses : Prop :=
  ∀ s : State, ¬ CodeAddress s.pc → step s = .fault (.pcInReservedRange s.pc s.pc)

/-- A sanity check of the decoder against words of 95_test_vectors.md. -/
def Obligations.SampleWordsDecode : Prop :=
  decode 0b0001000001000010#16 = .add .r0 .r1 .r2 ∧
  decode 0b0001001001111111#16 = .addi .r1 .r1 (-1) ∧
  decode 0b0101000001001000#16 = .not .r0 .r1 ∧
  decode 0b1010000001010100#16 = .sra .r0 .r1 4 ∧
  decode 0b1010000001110010#16 = .mod .r0 .r1 .r2 ∧
  decode 0b1001000100000000#16 = .const .r0 (-256) ∧
  decode 0b1101000100010010#16 = .hiconst .r0 0x12 ∧
  decode 0b0010001010000010#16 = .cmpu .r1 .r2 ∧
  decode 0b0010001111111111#16 = .cmpiu .r1 127 ∧
  decode 0b0110000001000011#16 = .ldr .r0 .r1 3 ∧
  decode 0b0111010001000011#16 = .str .r2 .r1 3 ∧
  decode 0b0000001111111101#16 = .brp (-3) ∧
  decode 0b1100101111111111#16 = .jmp 1023 ∧
  decode 0b1100000111000000#16 = .jmpr .r7 ∧
  decode 0b0100100000000001#16 = .jsr 0x001#11 ∧
  decode 0b0100000011000000#16 = .jsrr .r3 ∧
  decode 0b1111000000100101#16 = .trap 0x25 ∧
  decode 0b1000000000000000#16 = .rti

/-- The round trip of R108. -/
def Obligations.DecodeInvertsEncode : Prop :=
  (∀ i : Instr, i.wf = true → decode (encode i) = i) ∧
  (∀ n ∈ [4, 5, 6, 7, 8, 9, 11],
    (∀ v : Int, fitsSigned n v = true → ((BitVec.ofInt n v).signExtend 16).toInt = v) ∧
    (∀ u : Nat, fitsUnsigned n u = true → ((BitVec.ofNat n u).setWidth 16).toNat = u))

/-- The other direction of the round trip: the canonical encoding of R107. -/
def Obligations.EncodeOfDecodeIsCanonical : Prop :=
  ∀ w : Word, encode (decode w) =
    (w &&& ~~~ (decode w).ignoredBits) ||| (decode w).canonicalBits

/-- The decoder against the masks and matches of spec/opcode_table.json. -/
def Obligations.DecodeFollowsTheOpcodeTable : Prop :=
  ∀ w : Word,
    w &&& (decode w).row.mask = (decode w).row.pattern ∧ (decode w).wf = true ∧
      ∀ i : Instr, w &&& i.row.mask = i.row.pattern → (decode w).row = i.row

/-- The ignored bits of R105. -/
def Obligations.IgnoredBitsDoNotMatter : Prop :=
  (∀ w w2 : Word,
    w &&& ~~~ (decode w).ignoredBits = w2 &&& ~~~ (decode w).ignoredBits →
      decode w2 = decode w ∧ ∀ s : State, exec (decode w2) s = exec (decode w) s) ∧
  (∀ (a b d : Reg) (u : Nat),
    (Instr.cmp a b).ignoredBits = 0b0000000001111000#16 ∧
    (Instr.cmpu a b).ignoredBits = 0b0000000001111000#16 ∧
    (Instr.not d a).ignoredBits = 0b0000000000000111#16 ∧
    (Instr.jsrr a).ignoredBits = 0b0000011000111111#16 ∧
    (Instr.jmpr a).ignoredBits = 0b0000011000111111#16 ∧
    Instr.rti.ignoredBits = 0b0000111111111111#16 ∧
    (Instr.mod d a b).ignoredBits = 0b0000000000001000#16 ∧
    (Instr.hiconst d u).ignoredBits = 0b0000000100000000#16 ∧
    (Instr.trap u).ignoredBits = 0b0000111100000000#16) ∧
  (∀ i : Instr, i.ignoredBits ≠ 0x0000#16 →
    (∃ a b, i = .cmp a b) ∨ (∃ a b, i = .cmpu a b) ∨ (∃ d a, i = .not d a) ∨ (∃ a, i = .jsrr a) ∨
      (∃ a, i = .jmpr a) ∨ i = .rti ∨ (∃ d a b, i = .mod d a b) ∨ (∃ d u, i = .hiconst d u) ∨
      ∃ v, i = .trap v)

/-- The invariant of R38 and R41, and the canonical form of memory (log entry 2), over every step. -/
def Obligations.StepKeepsTheInvariant : Prop :=
  ∀ s t : State, s.Inv → step s = .next t → t.Inv ∧ t.cfg = s.cfg

/-- The invariant at reset and under the operations of the host interface. Its pc and flag parts are R38
and R41 at the state of R290. Its third part, the canonical form of memory, is the model's own choice
(log entry 2), and is all that the clause about a host write adds to R299. -/
def Obligations.ResetMeetsTheInvariant : Prop :=
  State.reset.Inv ∧ (∀ s : State, (hostReset s).Inv) ∧
  (∀ (s : State) (a v : Word), s.Inv → (hostWrite s a v).Inv)

/-- The reset state of R290. -/
def Obligations.ResetStateIsTheSpecs : Prop :=
  ∀ s t : State, s = State.reset ∨ s = hostReset t →
    s.pc = 0x8200#16 ∧ s.psr.mode = .os ∧ s.psr.nzp.n = true ∧ s.psr.nzp.z = false ∧
    s.psr.nzp.p = false ∧ s.psr.word = 0x8004#16 ∧ (∀ r, s.reg r = 0x0000#16) ∧
    ∀ a, s.mem.readWord a = 0x0000#16

/-- The complete mode transitions of R262.
Basis: R262, which the spec marks as derived from R40 and the instruction rules. -/
def Obligations.OnlyTrapRtiAndResetChangeTheMode : Prop :=
  (∀ s t : State, step s = .next t →
    ((∃ v, decode (s.mem.readWord s.pc) = .trap v) → t.psr.mode = .os) ∧
    (decode (s.mem.readWord s.pc) = .rti → t.psr.mode = .user) ∧
    ((∀ v, decode (s.mem.readWord s.pc) ≠ .trap v) → decode (s.mem.readWord s.pc) ≠ .rti →
      t.psr.mode = s.psr.mode)) ∧
  (∀ s : State, (hostReset s).psr.mode = .os) ∧
  (∀ (s : State) (a v : Word), (hostWrite s a v).psr.mode = s.psr.mode)

/-- The only difference between the modes (R263). -/
def Obligations.ModeMattersOnlyForOsData : Prop :=
  ∀ (i : Instr) (s : State),
    (∀ a, dataAddress s i = some a → OsAddress a →
      exec i (s.withMode .user) = .fault (.invalidMemoryAccess true s.pc) ∧
      ∀ l p, exec i (s.withMode .os) ≠ .fault (.invalidMemoryAccess l p)) ∧
    ((∀ a, dataAddress s i = some a → ¬ OsAddress a) →
      (∀ f, exec i (s.withMode .user) = .fault f ↔ exec i (s.withMode .os) = .fault f) ∧
      (∀ t, exec i (s.withMode .user) = .next t →
        ∃ u, exec i (s.withMode .os) = .next u ∧ u.withMode t.psr.mode = t))

/-- Isolation of the OS data region from user-mode steps, from the data check of R67. -/
def Obligations.UserStepsIgnoreOsData : Prop :=
  ∀ s t : State, AgreeOutsideOsData s t → s.psr.mode = .user →
    (∀ f, step s = .fault f ↔ step t = .fault f) ∧
    (∀ s2, step s = .next s2 →
      (∃ t2, step t = .next t2 ∧ AgreeOutsideOsData s2 t2) ∧
      ∀ a : Word, 0xA000 ≤ a.toNat → s2.mem.readWord a = s.mem.readWord a)

/-- The error table of R251 and R252, over all instructions: a taken BR and a BR that is not taken, and
a load or store after its data check, apart. R252 is marked by the spec as derived from R140 to R143. -/
def Obligations.ErrorsHaveTheirCause : Prop :=
  ∀ (i : Instr) (s : State) (f : Fault), exec i s = .fault f →
    f.pc = s.pc ∧
    (∀ a p, f = .pcInReservedRange a p →
      a = s.pc + 1#16 ∧ ¬ CodeAddress a ∧ mayAdvance i = true ∧
        (CodeAddress s.pc → s.pc = 0x1FFF#16 ∨ s.pc = 0x9FFF#16) ∧
        (∀ c, branchField i = some c → ¬ BranchCondition c s.psr.nzp) ∧
        (∀ d, dataAddress s i = some d → DataAllowed s d)) ∧
    (∀ a p, f = .invalidJump a p → ¬ CodeAddress a ∧ mayRejectJump i = true ∧
      ∀ c, branchField i = some c → BranchCondition c s.psr.nzp) ∧
    (∀ p, f = .invalidMemoryAccess true p →
      ∃ a, dataAddress s i = some a ∧ OsAddress a ∧ s.psr.mode = .user) ∧
    (∀ p, f = .invalidMemoryAccess false p →
      ∃ a, dataAddress s i = some a ∧ a.toNat < 0x2000 ∧ s.cfg.userCodeDataFault = true) ∧
    (∀ w p, f = .invalidInstruction w p → i.isReserved = true ∧ w = encode i)

/-- The whole-machine frame: R33 and R144 over all instructions. -/
def Obligations.StepsWriteOnlyWhatTheyName : Prop :=
  ∀ (i : Instr) (s t : State), exec i s = .next t →
    (∀ q, destination i ≠ some q → t.reg q = s.reg q) ∧
    (∀ k, (∀ a, storeAddress s i = some a → k ≠ highKey a ∧ k ≠ lowKey a) →
      t.mem.readByte k = s.mem.readByte k) ∧
    t.cfg = s.cfg

/-- The flag writers of R42 and the legal values of R41, over all instructions. -/
def Obligations.OnlyFlagWritersChangeTheFlags : Prop :=
  ∀ (i : Instr) (s t : State), exec i s = .next t →
    (writesFlags s.cfg i = true → OneHot t.psr.nzp ∧
      ∀ r, destination i = some r → t.psr.nzp = flagsOfWord (t.reg r)) ∧
    (writesFlags s.cfg i = false → t.psr.nzp = s.psr.nzp)

/-- SetNZP (40_step.md R147), and the bit layout of the PSR (10_state.md R40) in the word value that the
model computes from the fields it holds (DEDUCED, log entry 8). -/
def Obligations.FlagsFollowTheSignAndFillThePsr : Prop :=
  (∀ v : Word,
    ((setNzp v).n = true ↔ v.toInt < 0) ∧ ((setNzp v).z = true ↔ v = 0x0000#16) ∧
    ((setNzp v).p = true ↔ v.toInt > 0) ∧ OneHot (setNzp v)) ∧
  (∀ q : Psr,
    (q.word.getLsbD 15 = true ↔ q.mode = .os) ∧
    (∀ k, 3 ≤ k → k ≤ 14 → q.word.getLsbD k = false) ∧
    q.word.getLsbD 2 = q.nzp.n ∧ q.word.getLsbD 1 = q.nzp.z ∧ q.word.getLsbD 0 = q.nzp.p)

/-- The table of R64. -/
def Obligations.AddressMapHolds : Prop :=
  ∀ (s : State) (a : Word),
    (a.toNat < 0x2000 → regionOf a = .userCode ∧ validCode a = true ∧
      checkData s a =
        if s.cfg.userCodeDataFault then .error (.invalidMemoryAccess false s.pc) else .ok ()) ∧
    (0x2000 ≤ a.toNat → a.toNat < 0x8000 → regionOf a = .userData ∧ validCode a = false ∧
      checkData s a = .ok ()) ∧
    (0x8000 ≤ a.toNat → a.toNat < 0xA000 → regionOf a = .osCode ∧ validCode a = true ∧
      checkData s a =
        if s.psr.mode = .user then .error (.invalidMemoryAccess true s.pc) else .ok ()) ∧
    (0xA000 ≤ a.toNat → regionOf a = .osData ∧ validCode a = false ∧
      checkData s a =
        if s.psr.mode = .user then .error (.invalidMemoryAccess true s.pc) else .ok ())

/-- The table of R150, against the bit-vector division of the library. -/
def Obligations.DivisionMatchesBitVectorDivision : Prop :=
  (∀ (c : Config) (a b : Word),
    divValue c a b = (if c.divSigned then a.sdiv b else a.udiv b) ∧
    modValue c a b = (if b = 0#16 then 0#16 else if c.divSigned then a.srem b else a.umod b) ∧
    divValue c a 0#16 = 0#16 ∧ modValue c a 0#16 = 0#16) ∧
  (∀ c : Config, c.divSigned = true →
    divValue c 0x8000#16 0xFFFF#16 = 0x8000#16 ∧ modValue c 0x8000#16 0xFFFF#16 = 0#16)

/-- Memory as the array of R60. -/
def Obligations.WordReadAfterWordWrite : Prop :=
  ∀ (m : Memory) (a b v : Word),
    (Memory.writeWord m a v).readWord b = if b = a then v else Memory.readWord m b

/-- The canonical form (log entry 2) represents each memory array of R44 once. -/
def Obligations.CanonicalMemoriesAreEqualWhenTheyReadAlike : Prop :=
  ∀ m n : Memory, Memory.wf m → Memory.wf n →
    (∀ a : Word, Memory.readWord m a = Memory.readWord n a) → m = n

/-- The LEA expansion of R111.
Basis: R111, whose values the spec marks as derived from R174 and R175. -/
def Obligations.LeaLoadsItsLabel : Prop :=
  ∀ (rd : Reg) (label : Word) (s : State),
    expandLea rd label =
      [.const rd (label.extractLsb' 0 9).toInt, .hiconst rd (label.extractLsb' 8 8).toNat] ∧
    (CodeAddress (s.pc + 1#16) → CodeAddress (s.pc + 2#16) →
      ∃ u t, exec (.const rd (label.extractLsb' 0 9).toInt) s = .next u ∧
        exec (.hiconst rd (label.extractLsb' 8 8).toNat) u = .next t ∧
        OnlyRegister s t rd label ∧ t.pc = s.pc + 2#16 ∧ SameMemory s t)

/-- Load-constant (R112): the name looked up, the expansion, and its effect. A value outside -32768 to
65535 is left open (log entry 14), and nothing is said of it. -/
def Obligations.LcLoadsItsValue : Prop :=
  (∀ (rd : Reg) (table : ConstantTable) (name : List Byte),
    ((∀ i, (name, i) ∉ table) → expandLcNamed rd table name = .error .absentName) ∧
    (∀ i : Int, (∀ j, (name, j) ∈ table ↔ j = i) → -32768 ≤ i → i ≤ 65535 →
      expandLcNamed rd table name = .ok (expandLc rd (BitVec.ofInt 16 i)))) ∧
  ∀ (rd : Reg) (v : Word) (s : State), CodeAddress (s.pc + 1#16) →
    ((v.extractLsb' 8 8 = 0x00#8 ∨ v.extractLsb' 8 8 = 0xFF#8) →
      expandLc rd v = [.const rd (v.extractLsb' 0 9).toInt] ∧
      ∃ t, exec (.const rd (v.extractLsb' 0 9).toInt) s = .next t ∧
        OnlyRegister s t rd v ∧ SameMemory s t) ∧
    (v.extractLsb' 8 8 ≠ 0x00#8 → v.extractLsb' 8 8 ≠ 0xFF#8 → CodeAddress (s.pc + 2#16) →
      expandLc rd v =
        [.const rd (v.extractLsb' 0 9).toInt, .hiconst rd (v.extractLsb' 8 8).toNat] ∧
      ∃ u t, exec (.const rd (v.extractLsb' 0 9).toInt) s = .next u ∧
        exec (.hiconst rd (v.extractLsb' 8 8).toNat) u = .next t ∧
        OnlyRegister s t rd v ∧ SameMemory s t)

/-- The relocation formulas of R110 against the targets of R221, R223 and R225. The displacement is taken
over the integers, which is the model's choice (log entry 13). -/
def Obligations.RelocationsInvertTheTargets : Prop :=
  (∀ (addr target : Word) (d : Int),
    (relocBranch addr target = .ok d → fitsSigned 9 d = true ∧ relativeTarget addr d = target) ∧
    (relocJmp addr target = .ok d → fitsSigned 11 d = true ∧ relativeTarget addr d = target) ∧
    ((target.toNat : Int) = addr.toNat + 1 + d → fitsSigned 9 d = true →
      relocBranch addr target = .ok d) ∧
    ((target.toNat : Int) = addr.toNat + 1 + d → fitsSigned 11 d = true →
      relocJmp addr target = .ok d)) ∧
  (∀ (c : Config) (pc target : Word) (raw : BitVec 11), c.jsrTarget = .abs →
    (relocJsr target = .ok raw → target.toNat % 16 = 0 ∧ jsrTarget c pc raw = target) ∧
    (CodeAddress (jsrTarget c pc raw) → (jsrTarget c pc raw).toNat < 0x2000))

/-- A trap and its return (R257, R258), the source example generalised. -/
def Obligations.TrapThenRtiReturns : Prop :=
  ∀ (v : Nat) (s : State), CodeAddress (s.pc + 1#16) →
    ∃ t u, exec (.trap v) s = .next t ∧ exec .rti t = .next u ∧
      u.pc = s.pc + 1#16 ∧ u.psr.mode = .user ∧ OnlyRegister s u .r7 (s.pc + 1#16) ∧
      SameMemory s u

/-- The self-loop of R269. -/
def Obligations.SelfLoopStaysForever : Prop :=
  ∀ (s : State) (k : Nat), CodeAddress s.pc → OneHot s.psr.nzp →
    s.mem.readWord s.pc = 0x0FFF#16 → Sys2Proof.core.run k s = .next s

/-- The run of R293.
Basis: R293, which the spec marks as derived from R290 and R142. -/
def Obligations.NothingLoadedRunsNopsToTheEnd : Prop :=
  (∀ k : Nat, k ≤ 7679 →
    Sys2Proof.core.run k State.reset =
      .next ({ State.reset with pc := 0x8200#16 + BitVec.ofNat 16 k } : State)) ∧
  Sys2Proof.core.run 7680 State.reset = .fault (Fault.pcInReservedRange 0xA000#16 0x9FFF#16) ∧
  ({ State.reset with pc := 0x8200#16 + BitVec.ofNat 16 7679 } : State).pc = 0x9FFF#16

/-- The effect of Code and Data records (R296, R297). -/
def Obligations.LoadedRecordFillsMemory : Prop :=
  ∀ (tag : Word) (address : Word) (ws : List Word) (s : State),
    (tag = 0xCADE#16 ∨ tag = 0xDADA#16) → ws.length < 65536 →
    address.toNat + ws.length ≤ 65536 →
    ∃ t, load ((tag :: address :: BitVec.ofNat 16 ws.length :: ws).flatMap
          (fun w => [highByte w, lowByte w])) s = (t, none) ∧
      (∀ (i : Nat) (h : i < ws.length), t.mem.readWord (address + BitVec.ofNat 16 i) = ws[i]) ∧
      (∀ a : Word, (a.toNat < address.toNat ∨ address.toNat + ws.length ≤ a.toNat) →
        t.mem.readWord a = s.mem.readWord a) ∧
      t.pc = s.pc ∧ t.psr = s.psr ∧ t.regs = s.regs ∧ t.cfg = s.cfg

/-- Loading writes no register, no PSR field and not pc (R296). The clause about the invariant then says
that memory keeps its canonical form, which is the model's own choice (log entry 2) and no rule's. -/
def Obligations.LoadingTouchesOnlyMemory : Prop :=
  ∀ (bytes : List Byte) (s : State),
    (load bytes s).1.pc = s.pc ∧ (load bytes s).1.psr = s.psr ∧ (load bytes s).1.regs = s.regs ∧
    (load bytes s).1.cfg = s.cfg ∧ (s.Inv → (load bytes s).1.Inv)

/-- The trace record of R270. -/
def Obligations.TraceRecordsWhatTheStepWrote : Prop :=
  ∀ s : State,
    (∀ f, step s = .fault f → stepTrace s = none) ∧
    (∀ t, step s = .next t → ∃ r, stepTrace s = some r ∧ r.pc = s.pc ∧
      r.insn = s.mem.readWord s.pc ∧
      r.weFlags = writesFlags s.cfg (decode (s.mem.readWord s.pc)) ∧
      r.weReg = (destination (decode (s.mem.readWord s.pc))).isSome ∧
      r.weMem = (storeAddress s (decode (s.mem.readWord s.pc))).isSome ∧
      (∀ q : Reg, t.reg q = if r.weReg = true ∧ q.bits = r.regIndex then r.regValue else s.reg q) ∧
      (r.weReg = false → r.regIndex = 0#3 ∧ r.regValue = 0#16) ∧
      t.psr.nzp.bits = (if r.weFlags = true then r.nzp else s.psr.nzp.bits) ∧
      (r.weFlags = false → r.nzp = 0#3) ∧
      (∀ a : Word, t.mem.readWord a =
        if r.weMem = true ∧ a = r.memAddr then r.memValue else s.mem.readWord a) ∧
      (∀ a, dataAddress s (decode (s.mem.readWord s.pc)) = some a →
        r.memAddr = a ∧ r.memValue = t.mem.readWord a) ∧
      (dataAddress s (decode (s.mem.readWord s.pc)) = none →
        r.memAddr = 0#16 ∧ r.memValue = 0#16))
end

