-- ==== Sys2Proof/Laws/State.lean ====
section
/-! SUPPORT. The small lemmas of the state: one for each field of each update, so that no proof unfolds a
record update. -/

namespace Sys2Proof.Machine

open Sys2Proof

/-! ### Registers -/

@[simp] theorem Reg.ofBits_bits (r : Reg) : Reg.ofBits r.bits = r := by cases r <;> rfl

@[simp] theorem RegFile.get_set (x : RegFile) (r q : Reg) (v : Word) :
    (x.set r v).get q = if q = r then v else x.get q := by
  cases r <;> cases q <;> rfl

theorem RegFile.ext_get {x y : RegFile} (h : ∀ q, x.get q = y.get q) : x = y := by
  cases x; cases y
  simpa [RegFile.get] using
    ⟨h .r0, h .r1, h .r2, h .r3, h .r4, h .r5, h .r6, h .r7⟩

theorem State.reg_eq (s : State) (r : Reg) : s.reg r = s.regs.get r := rfl

/-! ### Commit -/

@[simp] theorem commit_pc (s : State) (e : Effects) : (commit s e).pc = e.pc := rfl

@[simp] theorem commit_mode (s : State) (e : Effects) :
    (commit s e).psr.mode = e.mode.getD s.psr.mode := rfl

@[simp] theorem commit_nzp (s : State) (e : Effects) :
    (commit s e).psr.nzp = e.flags.getD s.psr.nzp := rfl

@[simp] theorem commit_cfg (s : State) (e : Effects) : (commit s e).cfg = s.cfg := rfl

theorem commit_mem (s : State) (e : Effects) :
    (commit s e).mem =
      match e.mem with
      | some (a, v) => Memory.writeWord s.mem a v
      | none => s.mem := rfl

theorem commit_reg (s : State) (e : Effects) (q : Reg) :
    (commit s e).reg q =
      match e.reg with
      | some (r, v) => if q = r then v else s.reg q
      | none => s.reg q := by
  unfold State.reg commit
  cases e.reg with
  | none => rfl
  | some p => exact RegFile.get_set _ _ _ _

/-! ### The other updates -/

@[simp] theorem withMode_pc (s : State) (m : Mode) : (s.withMode m).pc = s.pc := rfl
@[simp] theorem withMode_mode (s : State) (m : Mode) : (s.withMode m).psr.mode = m := rfl
@[simp] theorem withMode_nzp (s : State) (m : Mode) : (s.withMode m).psr.nzp = s.psr.nzp := rfl
@[simp] theorem withMode_reg (s : State) (m : Mode) (r : Reg) : (s.withMode m).reg r = s.reg r := rfl
@[simp] theorem withMode_regs (s : State) (m : Mode) : (s.withMode m).regs = s.regs := rfl
@[simp] theorem withMode_mem (s : State) (m : Mode) : (s.withMode m).mem = s.mem := rfl
@[simp] theorem withMode_cfg (s : State) (m : Mode) : (s.withMode m).cfg = s.cfg := rfl

@[simp] theorem hostWrite_pc (s : State) (a v : Word) : (hostWrite s a v).pc = s.pc := rfl
@[simp] theorem hostWrite_psr (s : State) (a v : Word) : (hostWrite s a v).psr = s.psr := rfl
@[simp] theorem hostWrite_regs (s : State) (a v : Word) : (hostWrite s a v).regs = s.regs := rfl
@[simp] theorem hostWrite_cfg (s : State) (a v : Word) : (hostWrite s a v).cfg = s.cfg := rfl
@[simp] theorem hostWrite_mem (s : State) (a v : Word) :
    (hostWrite s a v).mem = s.mem.writeWord a v := rfl

@[simp] theorem hostReset_cfg (s : State) : (hostReset s).cfg = s.cfg := rfl
@[simp] theorem hostReset_pc (s : State) : (hostReset s).pc = resetPc := rfl
@[simp] theorem hostReset_mem (s : State) : (hostReset s).mem = [] := rfl
@[simp] theorem hostReset_regs (s : State) : (hostReset s).regs = State.reset.regs := rfl
@[simp] theorem hostReset_psr (s : State) : (hostReset s).psr = State.reset.psr := rfl

@[simp] theorem withFetchWord_pc (s : State) (n w : Nat) : (s.withFetchWord n w).pc = s.pc := rfl
@[simp] theorem withFetchWord_psr (s : State) (n w : Nat) : (s.withFetchWord n w).psr = s.psr := rfl
@[simp] theorem withFetchWord_regs (s : State) (n w : Nat) : (s.withFetchWord n w).regs = s.regs := rfl
@[simp] theorem withFetchWord_cfg (s : State) (n w : Nat) : (s.withFetchWord n w).cfg = s.cfg := rfl

end Sys2Proof.Machine
end

