-- ==== Sys2Proof/Laws/Decode.lean ====
section
/-! SUPPORT. The small lemmas of the decoder and the encoder: register fields, bytes of a word, and the ranges of
immediates. -/

namespace Sys2Proof

/-! ### Register fields -/

@[simp] theorem Reg.bits_ofBits (b : BitVec 3) : (Reg.ofBits b).bits = b := by
  revert b; decide

theorem Reg.bits_inj {r q : Reg} : r.bits = q.bits ↔ r = q := by
  cases r <;> cases q <;> decide

/-! ### Bytes of a word -/

@[simp] theorem highByte_wordOfBytes (hi lo : Byte) : highByte (wordOfBytes hi lo) = hi :=
  BitVec.extractLsb'_append_eq_left

@[simp] theorem lowByte_wordOfBytes (hi lo : Byte) : lowByte (wordOfBytes hi lo) = lo :=
  BitVec.extractLsb'_append_eq_right

@[simp] theorem wordOfBytes_bytes (v : Word) : wordOfBytes (highByte v) (lowByte v) = v :=
  BitVec.extractLsb'_append_extractLsb'_eq_extractLsb' (by rfl) |>.trans BitVec.extractLsb'_eq_self

theorem wordOfBytes_inj {h l h' l' : Byte} :
    wordOfBytes h l = wordOfBytes h' l' ↔ h = h' ∧ l = l' := by
  constructor
  · intro e
    exact ⟨by simpa using congrArg highByte e, by simpa using congrArg lowByte e⟩
  · rintro ⟨rfl, rfl⟩; rfl

/-- Decoding the two bytes of a word decodes the word. -/
theorem decodeBytes_word (v : Word) (rest : List Byte) :
    decodeBytes (highByte v :: lowByte v :: rest) = .ok (decode v, rest) := by
  simp [decodeBytes]

/-- The table's numbering of a row's bits is the word's own. -/
theorem decodeTableWord_word (v : Word) : decodeTableWord 16 v.toNat = some (decode v) := by
  simp [decodeTableWord, decodeBytes, Nat.mod_eq_of_lt v.isLt]

/-! ### Ranges of immediates (R93) -/

theorem fitsSigned_iff (n : Nat) (i : Int) :
    fitsSigned n i = true ↔ -(2 : Int) ^ (n - 1) ≤ i ∧ i < (2 : Int) ^ (n - 1) := by
  simp [fitsSigned]

theorem fitsUnsigned_iff (n u : Nat) : fitsUnsigned n u = true ↔ u < 2 ^ n := by
  simp [fitsUnsigned]

/-- What a signed field reads is in the field's range. -/
theorem fitsSigned_toInt {n : Nat} (x : BitVec n) : fitsSigned n x.toInt = true := by
  rw [fitsSigned_iff]
  exact ⟨BitVec.le_toInt x, BitVec.toInt_lt⟩

/-- What an unsigned field reads is in the field's range. -/
theorem fitsUnsigned_toNat {n : Nat} (x : BitVec n) : fitsUnsigned n x.toNat = true := by
  rw [fitsUnsigned_iff]; exact x.isLt

/-- An immediate in the signed range comes back from its field. -/
theorem toInt_ofInt_of_fitsSigned {n : Nat} {i : Int} (hn : 0 < n) (h : fitsSigned n i = true) :
    (BitVec.ofInt n i).toInt = i := by
  rw [fitsSigned_iff] at h
  rw [BitVec.toInt_ofInt]
  obtain ⟨m, rfl⟩ : ∃ m, n = m + 1 := ⟨n - 1, by omega⟩
  simp only [Nat.add_sub_cancel] at h
  apply Int.bmod_eq_of_le_mul_two
  · rw [Nat.pow_succ]; push_cast; omega
  · rw [Nat.pow_succ]; push_cast; omega

/-- An immediate in the unsigned range comes back from its field. -/
theorem toNat_ofNat_of_fitsUnsigned {n u : Nat} (h : fitsUnsigned n u = true) :
    (BitVec.ofNat n u).toNat = u := by
  rw [BitVec.toNat_ofNat]; exact Nat.mod_eq_of_lt ((fitsUnsigned_iff n u).mp h)

/-- The value of a concatenation of fields. -/
theorem toNat_append_eq {m n : Nat} (x : BitVec m) (y : BitVec n) :
    (x ++ y).toNat = x.toNat * 2 ^ n + y.toNat := by
  rw [BitVec.toNat_append, ← Nat.shiftLeft_add_eq_or_of_lt y.isLt, Nat.shiftLeft_eq]

end Sys2Proof
end

