-- ==== Sys2Proof/Laws/Linker.lean ====
section
/-! SUPPORT. What looking a constant up and emitting a literal can answer. -/

namespace Sys2Proof.Machine

open Sys2Proof

/-- The lookup fails for just the names that are not in the table. -/
theorem lookupConstant_error {t : ConstantTable} {name : List Byte} {e : LinkError} :
    lookupConstant t name = .error e ↔ e = .absentName ∧ ∀ i, (name, i) ∉ t := by
  induction t with
  | nil => simp [lookupConstant, eq_comm]
  | cons c t ih =>
    obtain ⟨n, i⟩ := c
    by_cases h : n = name
    · subst h; simp only [lookupConstant, if_true, reduceCtorEq, false_iff]
      exact fun hn => hn.2 i (by simp)
    · simp [lookupConstant, h, ih, Ne.symm h]

/-- A lookup that answers gives a value the table holds for the name. -/
theorem lookupConstant_mem {t : ConstantTable} {name : List Byte} {i : Int}
    (h : lookupConstant t name = .ok i) : (name, i) ∈ t := by
  induction t with
  | nil => cases h
  | cons c t ih =>
    obtain ⟨n, j⟩ := c
    by_cases hn : n = name
    · subst hn; simp_all [lookupConstant]
    · rw [lookupConstant, if_neg hn] at h
      exact List.mem_cons_of_mem _ (ih h)

/-- A literal in the signed range is emitted as its word. -/
theorem fillWords_ok {i : Int} (h : fitsSigned 16 i = true) :
    fillWords i = .ok [BitVec.ofInt 16 i] := by
  rw [fillWords, if_pos h]

end Sys2Proof.Machine
end

