-- ==== Sys2Proof/Laws/Memory.lean ====
section
/-! SUPPORT. The laws of memory: what a read after a write gives, and that every write keeps the
canonical form. -/

namespace Sys2Proof.Machine

open Sys2Proof

@[simp] theorem Memory.readByte_nil (a : Nat) : Memory.readByte [] a = unlistedByte := rfl

theorem Memory.readByte_cons (k : Nat) (b : Byte) (m : Memory) (a : Nat) :
    Memory.readByte ((k, b) :: m) a = if k = a then b else Memory.readByte m a := rfl

theorem Memory.readByte_remove (m : Memory) (a k : Nat) :
    Memory.readByte (Memory.remove m a) k = if k = a then unlistedByte else Memory.readByte m k := by
  induction m with
  | nil => simp [Memory.remove]
  | cons c m ih =>
    obtain ⟨j, b⟩ := c
    by_cases hj : j = a
    · subst hj
      simp only [Memory.remove, List.filter, bne_self_eq_false] at ih ⊢
      rw [ih, Memory.readByte_cons]
      by_cases hk : k = j
      · simp [hk]
      · simp [hk, Ne.symm hk]
    · have hb : (j != a) = true := by simpa using hj
      simp only [Memory.remove, List.filter, hb] at ih ⊢
      rw [Memory.readByte_cons, Memory.readByte_cons, ih]
      by_cases hk : j = k
      · subst hk; simp [hj]
      · simp [hk]

theorem Memory.readByte_insert (m : Memory) (a k : Nat) (v : Byte) (h : ∀ c ∈ m, c.1 ≠ a) :
    Memory.readByte (Memory.insert m a v) k = if k = a then v else Memory.readByte m k := by
  induction m with
  | nil => simp [Memory.insert, Memory.readByte_cons, eq_comm]
  | cons c m ih =>
    obtain ⟨j, b⟩ := c
    have hja : j ≠ a := h (j, b) (by simp)
    unfold Memory.insert
    split
    · rw [Memory.readByte_cons]
      by_cases hk : k = a
      · simp [hk]
      · simp [hk, Ne.symm hk]
    · rw [Memory.readByte_cons, Memory.readByte_cons, ih (fun c hc => h c (by simp [hc]))]
      by_cases hk : j = k
      · subst hk; simp [hja]
      · simp [hk]

theorem Memory.remove_key_ne (m : Memory) (a : Nat) : ∀ c ∈ Memory.remove m a, c.1 ≠ a := by
  intro c hc
  simpa using (List.mem_filter.mp hc).2

/-- A cell read after a write: the value at the written key, as before at every other one. -/
@[simp] theorem Memory.readByte_writeByte (m : Memory) (a k : Nat) (v : Byte) :
    Memory.readByte (Memory.writeByte m a v) k = if k = a then v else Memory.readByte m k := by
  unfold Memory.writeByte
  split
  · next h => rw [Memory.readByte_remove, h]
  · rw [Memory.readByte_insert _ _ _ _ (Memory.remove_key_ne m a), Memory.readByte_remove]
    by_cases hk : k = a <;> simp [hk]

/-- A cell read after a word write. -/
theorem Memory.readByte_writeWord (m : Memory) (a v : Word) (k : Nat) :
    Memory.readByte (Memory.writeWord m a v) k =
      if k = lowKey a then lowByte v else if k = highKey a then highByte v
      else Memory.readByte m k := by
  simp [Memory.writeWord]

theorem Memory.mem_insert {m : Memory} {a : Nat} {v : Byte} {c : Host.Cell}
    (h : c ∈ Memory.insert m a v) : c = (a, v) ∨ c ∈ m := by
  induction m with
  | nil => simpa [Memory.insert] using h
  | cons d m ih =>
    unfold Memory.insert at h
    split at h
    · simpa using h
    · rcases List.mem_cons.mp h with h | h
      · exact .inr (by simp [h])
      · exact (ih h).imp_right (by simp +contextual)

theorem Memory.insert_sorted {m : Memory} {a : Nat} {v : Byte}
    (hs : m.Pairwise (fun c d => c.1 < d.1)) (hne : ∀ c ∈ m, c.1 ≠ a) :
    (Memory.insert m a v).Pairwise (fun c d => c.1 < d.1) := by
  induction m with
  | nil => simp [Memory.insert]
  | cons d m ih =>
    obtain ⟨k, b⟩ := d
    obtain ⟨hd, hm⟩ := List.pairwise_cons.mp hs
    have hka : k ≠ a := hne (k, b) (by simp)
    unfold Memory.insert
    split
    · next h =>
      refine List.pairwise_cons.mpr ⟨?_, hs⟩
      intro c hc
      rcases List.mem_cons.mp hc with rfl | hc
      · exact h
      · exact Nat.lt_trans h (hd c hc)
    · next h =>
      refine List.pairwise_cons.mpr ⟨?_, ih hm (fun c hc => hne c (by simp [hc]))⟩
      intro c hc
      rcases Memory.mem_insert hc with rfl | hc
      · exact Nat.lt_of_le_of_ne (Nat.le_of_not_lt h) hka
      · exact hd c hc

theorem Memory.remove_wf {m : Memory} (h : Memory.wf m) (a : Nat) : Memory.wf (Memory.remove m a) :=
  ⟨h.1.filter _, fun c hc => h.2 c (List.mem_filter.mp hc).1⟩

/-- A cell write inside the address space keeps the canonical form. -/
theorem Memory.writeByte_wf {m : Memory} (h : Memory.wf m) {a : Nat} (ha : a < keyEnd) (v : Byte) :
    Memory.wf (Memory.writeByte m a v) := by
  unfold Memory.writeByte
  split
  · exact Memory.remove_wf h a
  · next hv =>
    have hr := Memory.remove_wf h a
    refine ⟨Memory.insert_sorted hr.1 (Memory.remove_key_ne m a), ?_⟩
    intro c hc
    rcases Memory.mem_insert hc with rfl | hc
    · exact ⟨hv, ha⟩
    · exact hr.2 c hc

theorem highKey_lt (a : Word) : highKey a < keyEnd := by
  have := a.isLt; unfold highKey keyEnd; omega

theorem lowKey_lt (a : Word) : lowKey a < keyEnd := by
  have := a.isLt; unfold lowKey keyEnd; omega

/-- Every word write keeps the canonical form. -/
theorem Memory.writeWord_wf {m : Memory} (h : Memory.wf m) (a v : Word) :
    Memory.wf (Memory.writeWord m a v) :=
  Memory.writeByte_wf (Memory.writeByte_wf h (highKey_lt a) _) (lowKey_lt a) _

/-- The reset memory has the canonical form. -/
theorem reset_mem_wf : Memory.wf State.reset.mem := by decide

end Sys2Proof.Machine
end

