-- ==== Sys2Proof/Laws/Ops.lean ====
section
/-! SUPPORT. What each shared operation can do, said once: proofs cite these lemmas and do not unfold the
operations. -/

namespace Sys2Proof.Machine

open Sys2Proof

/-! ### Checks -/

/-- `validCode` is the predicate of R65. -/
@[simp] theorem validCode_iff (a : Word) : validCode a = true ↔ CodeAddress a := by
  simp [validCode, userCodeEnd, osBase, osCodeEnd, BitVec.lt_def, BitVec.le_def]

theorem advance_ok {s : State} (h : CodeAddress (s.pc + 1#16)) : advance s = .ok (s.pc + 1#16) := by
  rw [advance, if_pos ((validCode_iff _).mpr h)]

theorem advance_error {s : State} (h : ¬ CodeAddress (s.pc + 1#16)) :
    advance s = .error (.pcInReservedRange (s.pc + 1#16) s.pc) := by
  rw [advance, if_neg (mt (validCode_iff _).mp h)]

theorem jumpTo_ok {s : State} {t : Word} (h : CodeAddress t) : jumpTo s t = .ok t := by
  rw [jumpTo, if_pos ((validCode_iff _).mpr h)]

theorem jumpTo_error {s : State} {t : Word} (h : ¬ CodeAddress t) :
    jumpTo s t = .error (.invalidJump t s.pc) := by
  rw [jumpTo, if_neg (mt (validCode_iff _).mp h)]

theorem checkData_ok {s : State} {a : Word} (h : DataAllowed s a) : checkData s a = .ok () := by
  obtain ⟨h1, h2⟩ := h
  simp only [OsAddress, ← Nat.not_lt] at h1
  simp only [checkData, osBase, userCodeEnd, BitVec.le_def, BitVec.lt_def]
  rw [if_neg (by simpa using h1), if_neg (by simpa using h2)]

theorem checkData_privilege {s : State} {a : Word} (h : OsAddress a) (hm : s.psr.mode = .user) :
    checkData s a = .error (.invalidMemoryAccess true s.pc) := by
  simp only [checkData, osBase, BitVec.le_def]
  rw [if_pos ⟨by simpa using h, hm⟩]

theorem checkData_structural {s : State} {a : Word} (hc : s.cfg.userCodeDataFault = true)
    (h : a.toNat < 0x2000) : checkData s a = .error (.invalidMemoryAccess false s.pc) := by
  simp only [checkData, osBase, userCodeEnd, BitVec.le_def, BitVec.lt_def]
  rw [if_neg, if_pos ⟨hc, by simpa using h⟩]
  rintro ⟨h', -⟩
  have : 0x8000 ≤ a.toNat := by simpa using h'
  omega

/-! ### The end of a step -/

/-- A step that goes on commits the effects it computed (R145). -/
theorem settle_next {s t : State} {x : Except Fault Effects} :
    settle s x = .next t ↔ ∃ e, x = .ok e ∧ t = commit s e := by
  cases x with
  | error f => simp [settle]
  | ok e => simp [settle, eq_comm]

/-- A step that ends in an error reports the error it met. -/
theorem settle_fault {s : State} {f : Fault} {x : Except Fault Effects} :
    settle s x = .fault f ↔ x = .error f := by
  cases x <;> simp [settle]

theorem settle_refused {s : State} {r : Refusal} {x : Except Fault Effects} :
    settle s x ≠ .refused r := by
  cases x <;> simp [settle]

/-- Every meaning commits its effects record. -/
theorem exec_eq_settle (i : Instr) (s : State) : exec i s = settle s (effectsOf i s) := by
  cases i <;> rfl

/-! ### The shapes of effects -/

theorem writeRegEffects_ok {s : State} {r : Reg} {v : Word} {f : Option Nzp} {e : Effects} :
    writeRegEffects s r v f = .ok e ↔
      CodeAddress (s.pc + 1#16) ∧
        e = { reg := some (r, v), flags := f, mem := none, mode := none, pc := s.pc + 1#16 } := by
  unfold writeRegEffects
  by_cases h : CodeAddress (s.pc + 1#16)
  · rw [advance_ok h]; exact ⟨fun he => ⟨h, (Except.ok.inj he).symm⟩, fun he => he.2 ▸ rfl⟩
  · rw [advance_error h]; exact ⟨nofun, fun he => absurd he.1 h⟩

theorem writeRegEffects_error {s : State} {r : Reg} {v : Word} {f : Option Nzp} {e : Fault} :
    writeRegEffects s r v f = .error e ↔
      ¬ CodeAddress (s.pc + 1#16) ∧ e = .pcInReservedRange (s.pc + 1#16) s.pc := by
  unfold writeRegEffects
  by_cases h : CodeAddress (s.pc + 1#16)
  · rw [advance_ok h]; exact ⟨nofun, fun he => absurd h he.1⟩
  · rw [advance_error h]; exact ⟨fun he => ⟨h, (Except.error.inj he).symm⟩, fun he => he.2 ▸ rfl⟩

theorem compareEffects_ok {s : State} {a b : Int} {e : Effects} :
    compareEffects s a b = .ok e ↔
      CodeAddress (s.pc + 1#16) ∧
        e = { reg := none, flags := some (setNzpCmp a b), mem := none, mode := none,
              pc := s.pc + 1#16 } := by
  unfold compareEffects
  by_cases h : CodeAddress (s.pc + 1#16)
  · rw [advance_ok h]; exact ⟨fun he => ⟨h, (Except.ok.inj he).symm⟩, fun he => he.2 ▸ rfl⟩
  · rw [advance_error h]; exact ⟨nofun, fun he => absurd he.1 h⟩

theorem compareEffects_error {s : State} {a b : Int} {e : Fault} :
    compareEffects s a b = .error e ↔
      ¬ CodeAddress (s.pc + 1#16) ∧ e = .pcInReservedRange (s.pc + 1#16) s.pc := by
  unfold compareEffects
  by_cases h : CodeAddress (s.pc + 1#16)
  · rw [advance_ok h]; exact ⟨nofun, fun he => absurd h he.1⟩
  · rw [advance_error h]; exact ⟨fun he => ⟨h, (Except.error.inj he).symm⟩, fun he => he.2 ▸ rfl⟩

theorem jumpEffects_ok {s : State} {t : Word} {e : Effects} :
    jumpEffects s t = .ok e ↔
      CodeAddress t ∧
        e = { reg := none, flags := none, mem := none, mode := none, pc := t } := by
  unfold jumpEffects
  by_cases h : CodeAddress t
  · rw [jumpTo_ok h]; exact ⟨fun he => ⟨h, (Except.ok.inj he).symm⟩, fun he => he.2 ▸ rfl⟩
  · rw [jumpTo_error h]; exact ⟨nofun, fun he => absurd he.1 h⟩

theorem jumpEffects_error {s : State} {t : Word} {e : Fault} :
    jumpEffects s t = .error e ↔ ¬ CodeAddress t ∧ e = .invalidJump t s.pc := by
  unfold jumpEffects
  by_cases h : CodeAddress t
  · rw [jumpTo_ok h]; exact ⟨nofun, fun he => absurd h he.1⟩
  · rw [jumpTo_error h]; exact ⟨fun he => ⟨h, (Except.error.inj he).symm⟩, fun he => he.2 ▸ rfl⟩

theorem branchEffects_taken {s : State} {c : Nzp} {off : Int} (h : branchTaken c s.psr.nzp = true) :
    branchEffects s c off = jumpEffects s (relativeTarget s.pc off) := by
  simp [branchEffects, h]

theorem branchEffects_notTaken_ok {s : State} {c : Nzp} {off : Int} {e : Effects}
    (h : branchTaken c s.psr.nzp = false) :
    branchEffects s c off = .ok e ↔
      CodeAddress (s.pc + 1#16) ∧
        e = { reg := none, flags := none, mem := none, mode := none, pc := s.pc + 1#16 } := by
  unfold branchEffects
  rw [if_neg (by simp [h])]
  by_cases hc : CodeAddress (s.pc + 1#16)
  · rw [advance_ok hc]; exact ⟨fun he => ⟨hc, (Except.ok.inj he).symm⟩, fun he => he.2 ▸ rfl⟩
  · rw [advance_error hc]; exact ⟨nofun, fun he => absurd he.1 hc⟩

theorem branchEffects_notTaken_error {s : State} {c : Nzp} {off : Int} {e : Fault}
    (h : branchTaken c s.psr.nzp = false) :
    branchEffects s c off = .error e ↔
      ¬ CodeAddress (s.pc + 1#16) ∧ e = .pcInReservedRange (s.pc + 1#16) s.pc := by
  unfold branchEffects
  rw [if_neg (by simp [h])]
  by_cases hc : CodeAddress (s.pc + 1#16)
  · rw [advance_ok hc]; exact ⟨nofun, fun he => absurd hc he.1⟩
  · rw [advance_error hc]; exact ⟨fun he => ⟨hc, (Except.error.inj he).symm⟩, fun he => he.2 ▸ rfl⟩

theorem callEffects_ok {s : State} {t : Word} {e : Effects} :
    callEffects s t = .ok e ↔
      CodeAddress t ∧
        e = { reg := some (.r7, s.pc + 1#16), flags := linkFlags s.cfg (s.pc + 1#16), mem := none,
              mode := none, pc := t } := by
  unfold callEffects
  by_cases h : CodeAddress t
  · rw [jumpTo_ok h]; exact ⟨fun he => ⟨h, (Except.ok.inj he).symm⟩, fun he => he.2 ▸ rfl⟩
  · rw [jumpTo_error h]; exact ⟨nofun, fun he => absurd he.1 h⟩

theorem callEffects_error {s : State} {t : Word} {e : Fault} :
    callEffects s t = .error e ↔ ¬ CodeAddress t ∧ e = .invalidJump t s.pc := by
  unfold callEffects
  by_cases h : CodeAddress t
  · rw [jumpTo_ok h]; exact ⟨nofun, fun he => absurd h he.1⟩
  · rw [jumpTo_error h]; exact ⟨fun he => ⟨h, (Except.error.inj he).symm⟩, fun he => he.2 ▸ rfl⟩

/-- The entry word of a vector lies in 0x8000-0x80FF. -/
theorem trapTarget_toNat (v : Nat) : (trapTarget v).toNat = 0x8000 + v % 256 := by
  unfold trapTarget trapBase
  rw [BitVec.toNat_or]
  simp only [BitVec.toNat_setWidth, BitVec.toNat_ofNat, BitVec.truncate_eq_setWidth]
  have hv : v % 256 < 2 ^ 15 := by omega
  have h := Nat.two_pow_add_eq_or_of_lt hv 1
  have e : (0x8000 : Word).toNat = 32768 := rfl
  norm_num at h ⊢
  rw [Nat.mod_eq_of_lt (by omega : v % 256 < 65536), e, h]

theorem trapTarget_code (v : Nat) : CodeAddress (trapTarget v) := by
  rw [CodeAddress, trapTarget_toNat]; omega

/-- Trap entry never fails, and does what R257 lists. -/
theorem trapEntry_eq (s : State) (v : Nat) :
    trapEntry s v =
      .ok { reg := some (.r7, s.pc + 1#16), flags := linkFlags s.cfg (s.pc + 1#16), mem := none,
            mode := some .os, pc := trapTarget v } := by
  unfold trapEntry
  rw [jumpTo_ok (trapTarget_code v)]
  rfl

theorem trapReturn_ok {s : State} {e : Effects} :
    trapReturn s = .ok e ↔
      CodeAddress (s.reg .r7) ∧
        e = { reg := none, flags := none, mem := none, mode := some .user, pc := s.reg .r7 } := by
  unfold trapReturn
  by_cases h : CodeAddress (s.reg .r7)
  · rw [linkReg, jumpTo_ok h]; exact ⟨fun he => ⟨h, (Except.ok.inj he).symm⟩, fun he => he.2 ▸ rfl⟩
  · rw [linkReg, jumpTo_error h]; exact ⟨nofun, fun he => absurd he.1 h⟩

theorem trapReturn_error {s : State} {e : Fault} :
    trapReturn s = .error e ↔ ¬ CodeAddress (s.reg .r7) ∧ e = .invalidJump (s.reg .r7) s.pc := by
  unfold trapReturn
  by_cases h : CodeAddress (s.reg .r7)
  · rw [linkReg, jumpTo_ok h]; exact ⟨nofun, fun he => absurd h he.1⟩
  · rw [linkReg, jumpTo_error h]; exact ⟨fun he => ⟨h, (Except.error.inj he).symm⟩, fun he => he.2 ▸ rfl⟩

/-! ### Load and store -/

theorem ldrEffects_ok {s : State} {rd rs : Reg} {imm : Int} {e : Effects} :
    ldrEffects rd rs imm s = .ok e ↔
      DataAllowed s (effectiveAddress (s.reg rs) imm) ∧ CodeAddress (s.pc + 1#16) ∧
        e = { reg := some (rd, s.mem.readWord (effectiveAddress (s.reg rs) imm)),
              flags := some (setNzp (s.mem.readWord (effectiveAddress (s.reg rs) imm))),
              mem := none, mode := none, pc := s.pc + 1#16 } := by
  unfold ldrEffects aluEffects
  by_cases h : DataAllowed s (effectiveAddress (s.reg rs) imm)
  · rw [checkData_ok h]
    exact writeRegEffects_ok.trans ⟨fun he => ⟨h, he⟩, fun he => he.2⟩
  · by_cases hp : OsAddress (effectiveAddress (s.reg rs) imm) ∧ s.psr.mode = .user
    · rw [checkData_privilege hp.1 hp.2]; exact ⟨nofun, fun he => absurd he.1 h⟩
    · have hu : s.cfg.userCodeDataFault = true ∧ (effectiveAddress (s.reg rs) imm).toNat < 0x2000 := by
        by_contra hn; exact h ⟨hp, hn⟩
      rw [checkData_structural hu.1 hu.2]; exact ⟨nofun, fun he => absurd he.1 h⟩

theorem strEffects_ok {s : State} {rt rs : Reg} {imm : Int} {e : Effects} :
    strEffects rt rs imm s = .ok e ↔
      DataAllowed s (effectiveAddress (s.reg rs) imm) ∧ CodeAddress (s.pc + 1#16) ∧
        e = { reg := none, flags := none,
              mem := some (effectiveAddress (s.reg rs) imm, s.reg rt), mode := none,
              pc := s.pc + 1#16 } := by
  unfold strEffects
  by_cases h : DataAllowed s (effectiveAddress (s.reg rs) imm)
  · rw [checkData_ok h]
    by_cases hc : CodeAddress (s.pc + 1#16)
    · rw [advance_ok hc]
      exact ⟨fun he => ⟨h, hc, (Except.ok.inj he).symm⟩, fun he => he.2.2 ▸ rfl⟩
    · rw [advance_error hc]; exact ⟨nofun, fun he => absurd he.2.1 hc⟩
  · by_cases hp : OsAddress (effectiveAddress (s.reg rs) imm) ∧ s.psr.mode = .user
    · rw [checkData_privilege hp.1 hp.2]; exact ⟨nofun, fun he => absurd he.1 h⟩
    · have hu : s.cfg.userCodeDataFault = true ∧ (effectiveAddress (s.reg rs) imm).toNat < 0x2000 := by
        by_contra hn; exact h ⟨hp, hn⟩
      rw [checkData_structural hu.1 hu.2]; exact ⟨nofun, fun he => absurd he.1 h⟩

/-- The errors of a load, in the order of R140. -/
theorem ldrEffects_error {s : State} {rd rs : Reg} {imm : Int} {f : Fault}
    (h : ldrEffects rd rs imm s = .error f) :
    (OsAddress (effectiveAddress (s.reg rs) imm) ∧ s.psr.mode = .user ∧
      f = .invalidMemoryAccess true s.pc) ∨
    ((effectiveAddress (s.reg rs) imm).toNat < 0x2000 ∧ s.cfg.userCodeDataFault = true ∧
      f = .invalidMemoryAccess false s.pc) ∨
    (DataAllowed s (effectiveAddress (s.reg rs) imm) ∧ ¬ CodeAddress (s.pc + 1#16) ∧
      f = .pcInReservedRange (s.pc + 1#16) s.pc) := by
  unfold ldrEffects aluEffects at h
  by_cases hp : OsAddress (effectiveAddress (s.reg rs) imm) ∧ s.psr.mode = .user
  · rw [checkData_privilege hp.1 hp.2] at h; cases h; exact .inl ⟨hp.1, hp.2, rfl⟩
  · by_cases hu : s.cfg.userCodeDataFault = true ∧ (effectiveAddress (s.reg rs) imm).toNat < 0x2000
    · rw [checkData_structural hu.1 hu.2] at h; cases h; exact .inr (.inl ⟨hu.2, hu.1, rfl⟩)
    · rw [checkData_ok ⟨hp, hu⟩] at h; exact .inr (.inr ⟨⟨hp, hu⟩, writeRegEffects_error.mp h⟩)

/-- The errors of a store, in the order of R140. -/
theorem strEffects_error {s : State} {rt rs : Reg} {imm : Int} {f : Fault}
    (h : strEffects rt rs imm s = .error f) :
    (OsAddress (effectiveAddress (s.reg rs) imm) ∧ s.psr.mode = .user ∧
      f = .invalidMemoryAccess true s.pc) ∨
    ((effectiveAddress (s.reg rs) imm).toNat < 0x2000 ∧ s.cfg.userCodeDataFault = true ∧
      f = .invalidMemoryAccess false s.pc) ∨
    (DataAllowed s (effectiveAddress (s.reg rs) imm) ∧ ¬ CodeAddress (s.pc + 1#16) ∧
      f = .pcInReservedRange (s.pc + 1#16) s.pc) := by
  unfold strEffects at h
  by_cases hp : OsAddress (effectiveAddress (s.reg rs) imm) ∧ s.psr.mode = .user
  · rw [checkData_privilege hp.1 hp.2] at h; cases h; exact .inl ⟨hp.1, hp.2, rfl⟩
  · by_cases hu : s.cfg.userCodeDataFault = true ∧ (effectiveAddress (s.reg rs) imm).toNat < 0x2000
    · rw [checkData_structural hu.1 hu.2] at h; cases h; exact .inr (.inl ⟨hu.2, hu.1, rfl⟩)
    · rw [checkData_ok ⟨hp, hu⟩] at h
      by_cases hc : CodeAddress (s.pc + 1#16)
      · rw [advance_ok hc] at h; cases h
      · rw [advance_error hc] at h; cases h; exact .inr (.inr ⟨⟨hp, hu⟩, hc, rfl⟩)

/-- The fetch of R140: what it gives, and the fetch guard. -/
theorem fetch_ok {s : State} {i : Instr} :
    fetch s = .ok i ↔ CodeAddress s.pc ∧ decode (s.mem.readWord s.pc) = i := by
  unfold fetch
  by_cases h : CodeAddress s.pc
  · rw [if_pos ((validCode_iff _).mpr h)]; simp [h]
  · rw [if_neg (mt (validCode_iff _).mp h)]; simp [h]

theorem fetch_error {s : State} {f : Fault} :
    fetch s = .error f ↔ ¬ CodeAddress s.pc ∧ f = .pcInReservedRange s.pc s.pc := by
  unfold fetch
  by_cases h : CodeAddress s.pc
  · rw [if_pos ((validCode_iff _).mpr h)]; simp [h]
  · rw [if_neg (mt (validCode_iff _).mp h)]; simp [h, eq_comm]

/-! ### Flags -/

theorem setNzp_eq (v : Word) : setNzp v = flagsOfWord v := by
  have hv := v.isLt
  have hz : v = 0#16 ↔ v.toNat = 0 := by
    rw [← BitVec.toNat_inj, BitVec.toNat_ofNat, Nat.zero_mod]
  unfold setNzp flagsOfWord
  rw [BitVec.toInt_eq_toNat_cond]
  by_cases h0 : v.toNat = 0
  · simp [hz, h0]
  · by_cases h1 : v.toNat < 0x8000
    · rw [if_pos (by omega), if_neg (by rw [hz]; exact h0), if_pos h1]
      simp only [Nzp.mk.injEq, decide_eq_false_iff_not, decide_eq_true_eq, hz]
      omega
    · rw [if_neg (by omega), if_neg (by rw [hz]; exact h0), if_neg h1]
      simp only [Nzp.mk.injEq, decide_eq_false_iff_not, decide_eq_true_eq, hz]
      omega

theorem setNzpCmp_eq (a b : Int) : setNzpCmp a b = flagsOfOrder a b := by
  unfold setNzpCmp flagsOfOrder
  split_ifs <;> simp <;> omega

theorem flagsOfWord_oneHot (v : Word) : OneHot (flagsOfWord v) := by
  unfold flagsOfWord; split_ifs <;> simp [OneHot]

theorem flagsOfOrder_oneHot (a b : Int) : OneHot (flagsOfOrder a b) := by
  unfold flagsOfOrder; split_ifs <;> simp [OneHot]

theorem linkFlags_getD (c : Config) (v : Word) (f : Nzp) :
    (linkFlags c v).getD f = if c.nzpOnLink then flagsOfWord v else f := by
  unfold linkFlags; split_ifs <;> simp [setNzp_eq]

theorem constFlags_getD (c : Config) (v : Word) (f : Nzp) :
    (constFlags c v).getD f = if c.nzpOnConst then flagsOfWord v else f := by
  unfold constFlags; split_ifs <;> simp [setNzp_eq]

end Sys2Proof.Machine
end

