-- ==== Sys2Proof/Laws/PerInstr.lean ====
section
/-! SUPPORT. Statements made for each instruction: its encoding lies in its own row of
    spec/opcode_table.json. -/

namespace Sys2Proof

/-! ### What a row's mask keeps of each layout (30_encoding.md R94 to R103) -/

theorem keep_append {w v : Nat} {x m x' : BitVec w} {y n y' : BitVec v} (h : x &&& m = x')
    (h' : y &&& n = y') : (x ++ y) &&& (m ++ n) = x' ++ y' := by
  rw [BitVec.and_append, h, h']

theorem keep_one (x : BitVec 1) : x &&& 1#1 = x := by revert x; decide
theorem keep_two (x : BitVec 2) : x &&& 3#2 = x := by revert x; decide
theorem keep_three (x : BitVec 3) : x &&& 7#3 = x := by revert x; decide
theorem keep_four (x : BitVec 4) : x &&& 15#4 = x := by revert x; decide

theorem mask_branch (o : BitVec 4) (c : BitVec 3) (x : BitVec 9) :
    (o ++ c ++ x : Word) &&& 0xFE00#16 = (o ++ c ++ 0#9 : Word) := by
  have h : (0xFE00#16 : Word) = (15#4 ++ 7#3 ++ 0#9 : Word) := rfl
  rw [h]; exact keep_append (keep_append (keep_four _) (keep_three _)) BitVec.and_zero

theorem mask_registers (o : BitVec 4) (d : BitVec 3) (a : BitVec 3) (f : BitVec 3) (b : BitVec 3) :
    (o ++ d ++ a ++ f ++ b : Word) &&& 0xF038#16 = (o ++ 0#3 ++ 0#3 ++ f ++ 0#3 : Word) := by
  have h : (0xF038#16 : Word) = (15#4 ++ 0#3 ++ 0#3 ++ 7#3 ++ 0#3 : Word) := rfl
  rw [h]; exact keep_append (keep_append (keep_append (keep_append (keep_four _) BitVec.and_zero)
    BitVec.and_zero) (keep_three _)) BitVec.and_zero

theorem mask_immediate (o : BitVec 4) (d : BitVec 3) (a : BitVec 3) (f : BitVec 1) (x : BitVec 5) :
    (o ++ d ++ a ++ f ++ x : Word) &&& 0xF020#16 = (o ++ 0#3 ++ 0#3 ++ f ++ 0#5 : Word) := by
  have h : (0xF020#16 : Word) = (15#4 ++ 0#3 ++ 0#3 ++ 1#1 ++ 0#5 : Word) := rfl
  rw [h]; exact keep_append (keep_append (keep_append (keep_append (keep_four _) BitVec.and_zero)
    BitVec.and_zero) (keep_one _)) BitVec.and_zero

theorem mask_compare (o : BitVec 4) (a : BitVec 3) (f : BitVec 2) (y : BitVec 4) (b : BitVec 3) :
    (o ++ a ++ f ++ y ++ b : Word) &&& 0xF180#16 = (o ++ 0#3 ++ f ++ 0#4 ++ 0#3 : Word) := by
  have h : (0xF180#16 : Word) = (15#4 ++ 0#3 ++ 3#2 ++ 0#4 ++ 0#3 : Word) := rfl
  rw [h]; exact keep_append (keep_append (keep_append (keep_append (keep_four _) BitVec.and_zero)
    (keep_two _)) BitVec.and_zero) BitVec.and_zero

theorem mask_compareImmediate (o : BitVec 4) (a : BitVec 3) (f : BitVec 2) (x : BitVec 7) :
    (o ++ a ++ f ++ x : Word) &&& 0xF180#16 = (o ++ 0#3 ++ f ++ 0#7 : Word) := by
  have h : (0xF180#16 : Word) = (15#4 ++ 0#3 ++ 3#2 ++ 0#7 : Word) := rfl
  rw [h]; exact keep_append (keep_append (keep_append (keep_four _) BitVec.and_zero) (keep_two _))
    BitVec.and_zero

theorem mask_callRegister (o : BitVec 4) (f : BitVec 1) (y : BitVec 2) (a : BitVec 3) (z :
    BitVec 6) :
    (o ++ f ++ y ++ a ++ z : Word) &&& 0xF800#16 = (o ++ f ++ 0#2 ++ 0#3 ++ 0#6 : Word) := by
  have h : (0xF800#16 : Word) = (15#4 ++ 1#1 ++ 0#2 ++ 0#3 ++ 0#6 : Word) := rfl
  rw [h]; exact keep_append (keep_append (keep_append (keep_append (keep_four _) (keep_one _))
    BitVec.and_zero) BitVec.and_zero) BitVec.and_zero

theorem mask_call (o : BitVec 4) (f : BitVec 1) (x : BitVec 11) :
    (o ++ f ++ x : Word) &&& 0xF800#16 = (o ++ f ++ 0#11 : Word) := by
  have h : (0xF800#16 : Word) = (15#4 ++ 1#1 ++ 0#11 : Word) := rfl
  rw [h]; exact keep_append (keep_append (keep_four _) (keep_one _)) BitVec.and_zero

theorem mask_shift (o : BitVec 4) (d : BitVec 3) (a : BitVec 3) (f : BitVec 2) (x : BitVec 4) :
    (o ++ d ++ a ++ f ++ x : Word) &&& 0xF030#16 = (o ++ 0#3 ++ 0#3 ++ f ++ 0#4 : Word) := by
  have h : (0xF030#16 : Word) = (15#4 ++ 0#3 ++ 0#3 ++ 3#2 ++ 0#4 : Word) := rfl
  rw [h]; exact keep_append (keep_append (keep_append (keep_append (keep_four _) BitVec.and_zero)
    BitVec.and_zero) (keep_two _)) BitVec.and_zero

theorem mask_modulo (o : BitVec 4) (d : BitVec 3) (a : BitVec 3) (f : BitVec 2) (y : BitVec 1) (b
    : BitVec 3) :
    (o ++ d ++ a ++ f ++ y ++ b : Word) &&& 0xF030#16 = (o ++ 0#3 ++ 0#3 ++ f ++ 0#1 ++ 0#3 :
    Word) := by
  have h : (0xF030#16 : Word) = (15#4 ++ 0#3 ++ 0#3 ++ 3#2 ++ 0#1 ++ 0#3 : Word) := rfl
  rw [h]; exact keep_append (keep_append (keep_append (keep_append (keep_append (keep_four _)
    BitVec.and_zero) BitVec.and_zero) (keep_two _)) BitVec.and_zero) BitVec.and_zero

theorem mask_memory (o : BitVec 4) (d : BitVec 3) (a : BitVec 3) (x : BitVec 6) :
    (o ++ d ++ a ++ x : Word) &&& 0xF000#16 = (o ++ 0#3 ++ 0#3 ++ 0#6 : Word) := by
  have h : (0xF000#16 : Word) = (15#4 ++ 0#3 ++ 0#3 ++ 0#6 : Word) := rfl
  rw [h]; exact keep_append (keep_append (keep_append (keep_four _) BitVec.and_zero)
    BitVec.and_zero) BitVec.and_zero

theorem mask_const (o : BitVec 4) (d : BitVec 3) (x : BitVec 9) :
    (o ++ d ++ x : Word) &&& 0xF000#16 = (o ++ 0#3 ++ 0#9 : Word) := by
  have h : (0xF000#16 : Word) = (15#4 ++ 0#3 ++ 0#9 : Word) := rfl
  rw [h]; exact keep_append (keep_append (keep_four _) BitVec.and_zero) BitVec.and_zero

theorem mask_hiconst (o : BitVec 4) (d : BitVec 3) (y : BitVec 1) (x : BitVec 8) :
    (o ++ d ++ y ++ x : Word) &&& 0xF000#16 = (o ++ 0#3 ++ 0#1 ++ 0#8 : Word) := by
  have h : (0xF000#16 : Word) = (15#4 ++ 0#3 ++ 0#1 ++ 0#8 : Word) := rfl
  rw [h]; exact keep_append (keep_append (keep_append (keep_four _) BitVec.and_zero)
    BitVec.and_zero) BitVec.and_zero

theorem mask_trap (o : BitVec 4) (y : BitVec 4) (x : BitVec 8) :
    (o ++ y ++ x : Word) &&& 0xF000#16 = (o ++ 0#4 ++ 0#8 : Word) := by
  have h : (0xF000#16 : Word) = (15#4 ++ 0#4 ++ 0#8 : Word) := rfl
  rw [h]; exact keep_append (keep_append (keep_four _) BitVec.and_zero) BitVec.and_zero

theorem mask_opcode (o : BitVec 4) (x : BitVec 12) :
    (o ++ x : Word) &&& 0xF000#16 = (o ++ 0#12 : Word) := by
  have h : (0xF000#16 : Word) = (15#4 ++ 0#12 : Word) := rfl
  rw [h]; exact keep_append (keep_four _) BitVec.and_zero

end Sys2Proof

namespace Sys2Proof.Laws

open Sys2Proof

/-- The encoded word is of the instruction's own row: the row's mask and match accept it. -/
def OpcodeRow.Statement (i : Instr) : Prop := encode i &&& i.row.mask = i.row.pattern

theorem OpcodeRow.nop (off : Int) : OpcodeRow.Statement (.nop off) :=
  (mask_branch _ _ _).trans rfl

theorem OpcodeRow.brp (off : Int) : OpcodeRow.Statement (.brp off) :=
  (mask_branch _ _ _).trans rfl

theorem OpcodeRow.brz (off : Int) : OpcodeRow.Statement (.brz off) :=
  (mask_branch _ _ _).trans rfl

theorem OpcodeRow.brzp (off : Int) : OpcodeRow.Statement (.brzp off) :=
  (mask_branch _ _ _).trans rfl

theorem OpcodeRow.brn (off : Int) : OpcodeRow.Statement (.brn off) :=
  (mask_branch _ _ _).trans rfl

theorem OpcodeRow.brnp (off : Int) : OpcodeRow.Statement (.brnp off) :=
  (mask_branch _ _ _).trans rfl

theorem OpcodeRow.brnz (off : Int) : OpcodeRow.Statement (.brnz off) :=
  (mask_branch _ _ _).trans rfl

theorem OpcodeRow.brnzp (off : Int) : OpcodeRow.Statement (.brnzp off) :=
  (mask_branch _ _ _).trans rfl

theorem OpcodeRow.add (rd rs rt : Reg) : OpcodeRow.Statement (.add rd rs rt) :=
  (mask_registers _ _ _ _ _).trans rfl

theorem OpcodeRow.mul (rd rs rt : Reg) : OpcodeRow.Statement (.mul rd rs rt) :=
  (mask_registers _ _ _ _ _).trans rfl

theorem OpcodeRow.sub (rd rs rt : Reg) : OpcodeRow.Statement (.sub rd rs rt) :=
  (mask_registers _ _ _ _ _).trans rfl

theorem OpcodeRow.div (rd rs rt : Reg) : OpcodeRow.Statement (.div rd rs rt) :=
  (mask_registers _ _ _ _ _).trans rfl

theorem OpcodeRow.addi (rd rs : Reg) (imm : Int) : OpcodeRow.Statement (.addi rd rs imm) :=
  (mask_immediate _ _ _ _ _).trans rfl

theorem OpcodeRow.cmp (rs rt : Reg) : OpcodeRow.Statement (.cmp rs rt) :=
  (mask_compare _ _ _ _ _).trans rfl

theorem OpcodeRow.cmpu (rs rt : Reg) : OpcodeRow.Statement (.cmpu rs rt) :=
  (mask_compare _ _ _ _ _).trans rfl

theorem OpcodeRow.cmpi (rs : Reg) (imm : Int) : OpcodeRow.Statement (.cmpi rs imm) :=
  (mask_compareImmediate _ _ _ _).trans rfl

theorem OpcodeRow.cmpiu (rs : Reg) (uimm : Nat) : OpcodeRow.Statement (.cmpiu rs uimm) :=
  (mask_compareImmediate _ _ _ _).trans rfl

theorem OpcodeRow.jsrr (rs : Reg) : OpcodeRow.Statement (.jsrr rs) :=
  (mask_callRegister _ _ _ _ _).trans rfl

theorem OpcodeRow.jsr (raw : BitVec 11) : OpcodeRow.Statement (.jsr raw) :=
  (mask_call _ _ _).trans rfl

theorem OpcodeRow.and (rd rs rt : Reg) : OpcodeRow.Statement (.and rd rs rt) :=
  (mask_registers _ _ _ _ _).trans rfl

theorem OpcodeRow.not (rd rs : Reg) : OpcodeRow.Statement (.not rd rs) :=
  (mask_registers _ _ _ _ _).trans rfl

theorem OpcodeRow.or (rd rs rt : Reg) : OpcodeRow.Statement (.or rd rs rt) :=
  (mask_registers _ _ _ _ _).trans rfl

theorem OpcodeRow.xor (rd rs rt : Reg) : OpcodeRow.Statement (.xor rd rs rt) :=
  (mask_registers _ _ _ _ _).trans rfl

theorem OpcodeRow.andi (rd rs : Reg) (imm : Int) : OpcodeRow.Statement (.andi rd rs imm) :=
  (mask_immediate _ _ _ _ _).trans rfl

theorem OpcodeRow.ldr (rd rs : Reg) (imm : Int) : OpcodeRow.Statement (.ldr rd rs imm) :=
  (mask_memory _ _ _ _).trans rfl

theorem OpcodeRow.str (rt rs : Reg) (imm : Int) : OpcodeRow.Statement (.str rt rs imm) :=
  (mask_memory _ _ _ _).trans rfl

theorem OpcodeRow.rti : OpcodeRow.Statement (.rti) :=
  (mask_opcode _ _).trans rfl

theorem OpcodeRow.const (rd : Reg) (imm : Int) : OpcodeRow.Statement (.const rd imm) :=
  (mask_const _ _ _).trans rfl

theorem OpcodeRow.sll (rd rs : Reg) (amount : Nat) : OpcodeRow.Statement (.sll rd rs amount) :=
  (mask_shift _ _ _ _ _).trans rfl

theorem OpcodeRow.sra (rd rs : Reg) (amount : Nat) : OpcodeRow.Statement (.sra rd rs amount) :=
  (mask_shift _ _ _ _ _).trans rfl

theorem OpcodeRow.srl (rd rs : Reg) (amount : Nat) : OpcodeRow.Statement (.srl rd rs amount) :=
  (mask_shift _ _ _ _ _).trans rfl

theorem OpcodeRow.mod (rd rs rt : Reg) : OpcodeRow.Statement (.mod rd rs rt) :=
  (mask_modulo _ _ _ _ _ _).trans rfl

theorem OpcodeRow.jmpr (rs : Reg) : OpcodeRow.Statement (.jmpr rs) :=
  (mask_callRegister _ _ _ _ _).trans rfl

theorem OpcodeRow.jmp (off : Int) : OpcodeRow.Statement (.jmp off) :=
  (mask_call _ _ _).trans rfl

theorem OpcodeRow.hiconst (rd : Reg) (uimm : Nat) : OpcodeRow.Statement (.hiconst rd uimm) :=
  (mask_hiconst _ _ _ _).trans rfl

theorem OpcodeRow.trap (vector : Nat) : OpcodeRow.Statement (.trap vector) :=
  (mask_trap _ _ _).trans rfl

theorem OpcodeRow.reserved3 (low : BitVec 12) : OpcodeRow.Statement (.reserved3 low) :=
  (mask_opcode _ _).trans rfl

theorem OpcodeRow.reservedB (low : BitVec 12) : OpcodeRow.Statement (.reservedB low) :=
  (mask_opcode _ _).trans rfl

theorem OpcodeRow.reservedE (low : BitVec 12) : OpcodeRow.Statement (.reservedE low) :=
  (mask_opcode _ _).trans rfl

end Sys2Proof.Laws
end

