-- ==== Sys2Proof/Laws/Step.lean ====
section
/-! SUPPORT. What an instruction's effects can be, said once for all constructors: a statement about every
instruction cites `effects_shape` or `exec_next_shape` and does not split on the instruction. -/

namespace Sys2Proof.Machine

open Sys2Proof

/-- What PSR.PRIV an instruction writes (R262). -/
def modeWritten : Instr → Option Mode
  | .trap _ => some .os
  | .rti => some .user
  | _ => none

theorem setNzp_oneHot (v : Word) : OneHot (setNzp v) := setNzp_eq v ▸ flagsOfWord_oneHot v

theorem constFlags_isSome (c : Config) (v : Word) : (constFlags c v).isSome = c.nzpOnConst := by
  unfold constFlags; cases c.nzpOnConst <;> rfl

theorem linkFlags_isSome (c : Config) (v : Word) : (linkFlags c v).isSome = c.nzpOnLink := by
  unfold linkFlags; cases c.nzpOnLink <;> rfl

theorem constFlags_some {c : Config} {v : Word} {f : Nzp} (h : constFlags c v = some f) :
    f = setNzp v := by
  unfold constFlags at h; split at h <;> simp_all

theorem linkFlags_some {c : Config} {v : Word} {f : Nzp} (h : linkFlags c v = some f) :
    f = setNzp v := by
  unfold linkFlags at h; split at h <;> simp_all

/-- A branch, taken or not, writes nothing but `pc`. -/
theorem branchEffects_ok {s : State} {c : Nzp} {off : Int} {e : Effects}
    (h : branchEffects s c off = .ok e) :
    CodeAddress e.pc ∧ e = { reg := none, flags := none, mem := none, mode := none, pc := e.pc } := by
  by_cases hb : branchTaken c s.psr.nzp = true
  · rw [branchEffects_taken hb] at h
    obtain ⟨hc, rfl⟩ := jumpEffects_ok.mp h
    exact ⟨hc, rfl⟩
  · obtain ⟨hc, rfl⟩ := (branchEffects_notTaken_ok (by simpa using hb)).mp h
    exact ⟨hc, rfl⟩

/-- The effects `e` of instruction `i` in state `s`: the next pc is a code address, each write is there
exactly when the instruction has it, written flags are legal and follow the written register, and a
data access was allowed. -/
structure EffectsShape (i : Instr) (s : State) (e : Effects) : Prop where
  pc : CodeAddress e.pc
  reg : e.reg.map Prod.fst = destination i
  flags : e.flags.isSome = writesFlags s.cfg i
  legal : ∀ f, e.flags = some f → OneHot f
  value : ∀ f r v, e.flags = some f → e.reg = some (r, v) → f = setNzp v
  mem : e.mem.map Prod.fst = storeAddress s i
  mode : e.mode = modeWritten i
  data : ∀ a, dataAddress s i = some a → DataAllowed s a

/-- Whatever the instruction, its effects have that shape. -/
theorem effects_shape {i : Instr} {s : State} {e : Effects} (h : effectsOf i s = .ok e) :
    EffectsShape i s e := by
  cases i
  case trap v =>
    obtain rfl := Except.ok.inj ((trapEntry_eq s v).symm.trans h)
    refine ⟨trapTarget_code v, rfl, linkFlags_isSome _ _, ?_, ?_, rfl, rfl, nofun⟩
    · intro f hf; exact linkFlags_some hf ▸ setNzp_oneHot _
    · intro f r v hf hr; cases hr; exact linkFlags_some hf
  case rti =>
    obtain ⟨hc, rfl⟩ := trapReturn_ok.mp h
    exact ⟨hc, rfl, rfl, nofun, nofun, rfl, rfl, nofun⟩
  case ldr =>
    obtain ⟨hd, hc, rfl⟩ := ldrEffects_ok.mp h
    refine ⟨hc, rfl, rfl, ?_, ?_, rfl, rfl, ?_⟩
    · rintro f ⟨⟩; exact setNzp_oneHot _
    · rintro f r v ⟨⟩ ⟨⟩; rfl
    · rintro a ⟨⟩; exact hd
  case str =>
    obtain ⟨hd, hc, rfl⟩ := strEffects_ok.mp h
    refine ⟨hc, rfl, rfl, nofun, nofun, rfl, rfl, ?_⟩
    rintro a ⟨⟩; exact hd
  case reserved3 | reservedB | reservedE => cases h
  case jmp | jmpr =>
    obtain ⟨hc, rfl⟩ := jumpEffects_ok.mp h
    exact ⟨hc, rfl, rfl, nofun, nofun, rfl, rfl, nofun⟩
  case jsr | jsrr =>
    obtain ⟨hc, rfl⟩ := callEffects_ok.mp h
    refine ⟨hc, rfl, linkFlags_isSome _ _, ?_, ?_, rfl, rfl, nofun⟩
    · intro f hf; exact linkFlags_some hf ▸ setNzp_oneHot _
    · intro f r v hf hr; cases hr; exact linkFlags_some hf
  case cmp | cmpu | cmpi | cmpiu =>
    obtain ⟨hc, rfl⟩ := compareEffects_ok.mp h
    refine ⟨hc, rfl, rfl, ?_, nofun, rfl, rfl, nofun⟩
    rintro f ⟨⟩; exact setNzpCmp_eq _ _ ▸ flagsOfOrder_oneHot _ _
  case const | hiconst =>
    obtain ⟨hc, rfl⟩ := writeRegEffects_ok.mp h
    refine ⟨hc, rfl, constFlags_isSome _ _, ?_, ?_, rfl, rfl, nofun⟩
    · intro f hf; exact constFlags_some hf ▸ setNzp_oneHot _
    · intro f r v hf hr; cases hr; exact constFlags_some hf
  case nop off | brp off | brz off | brzp off | brn off | brnp off | brnz off | brnzp off =>
    simp only [effectsOf, nopEffects, brpEffects, brzEffects, brzpEffects, brnEffects,
      brnpEffects, brnzEffects, brnzpEffects] at h
    obtain ⟨hc, he⟩ := branchEffects_ok h
    rw [he]
    exact ⟨hc, rfl, rfl, nofun, nofun, rfl, rfl, nofun⟩
  all_goals
    obtain ⟨hc, rfl⟩ := writeRegEffects_ok.mp h
    refine ⟨hc, rfl, rfl, ?_, ?_, rfl, rfl, nofun⟩
    · rintro f ⟨⟩; exact setNzp_oneHot _
    · rintro f r v ⟨⟩ ⟨⟩; rfl

/-- A meaning that goes on commits effects of that shape. -/
theorem exec_next_shape {i : Instr} {s t : State} (h : exec i s = .next t) :
    ∃ e, effectsOf i s = .ok e ∧ t = commit s e ∧ EffectsShape i s e := by
  rw [exec_eq_settle, settle_next] at h
  obtain ⟨e, he, rfl⟩ := h
  exact ⟨e, he, rfl, effects_shape he⟩

/-- A step that goes on fetched at a code address and committed effects of that shape. -/
theorem step_next_shape {s t : State} (h : step s = .next t) :
    CodeAddress s.pc ∧ ∃ e, effectsOf (decode (s.mem.readWord s.pc)) s = .ok e ∧ t = commit s e ∧
      EffectsShape (decode (s.mem.readWord s.pc)) s e := by
  unfold step at h
  split at h
  · rename_i i hi
    obtain ⟨hc, rfl⟩ := fetch_ok.mp hi
    exact ⟨hc, exec_next_shape h⟩
  · cases h

end Sys2Proof.Machine
end

