-- ==== Sys2Proof/Tests/Slice0.lean ====
section
/-! SUPPORT. The model's own tests: ill-formed terms refused, words written out from the encoding tables decoded,
one step on small states with the results that 95_test_vectors.md gives, and for every statement with hypotheses
a concrete state that meets them. Expected values are the spec's, each test names its source. -/

namespace Sys2Proof.Tests

open Sys2Proof Sys2Proof.Machine

/-! ### Small states -/

def flagN : Nzp := { n := true, z := false, p := false }
def flagZ : Nzp := { n := false, z := true, p := false }
def flagP : Nzp := { n := false, z := false, p := true }

/-- A state with the word `w` at `pc`, and the listed registers and memory words (the start states of
95_test_vectors.md section 2: everything else zero, the parameters at their defaults). -/
def start (pc w : Word) (m : Mode) (f : Nzp) (rs : List (Reg × Word)) (ms : List (Word × Word)) :
    State :=
  { pc := pc
    psr := { mode := m, nzp := f }
    regs := rs.foldl (fun x p => x.set p.1 p.2) State.reset.regs
    mem := ms.foldl (fun x p => Memory.writeWord x p.1 p.2) (Memory.writeWord [] pc w)
    cfg := defaultConfig }

/-- After one step: a register, `pc`, the flags and the mode. -/
def after (s : State) (r : Reg) : Option (Word × Word × Nzp × Mode) :=
  match step s with
  | .next t => some (t.reg r, t.pc, t.psr.nzp, t.psr.mode)
  | .fault _ => none
  | .refused _ => none

/-- After one step: a memory word, `pc`, the flags and the mode. -/
def cell (s : State) (a : Word) : Option (Word × Word × Nzp × Mode) :=
  match step s with
  | .next t => some (t.mem.readWord a, t.pc, t.psr.nzp, t.psr.mode)
  | .fault _ => none
  | .refused _ => none

/-- The execution error of one step. -/
def stop (s : State) : Option Fault :=
  match step s with
  | .next _ => none
  | .fault f => some f
  | .refused _ => none

/-- 95_test_vectors.md section 2: ADD R0, R1, R2 (signed overflow). -/
theorem test_add_signed_overflow :
    after (start 0x0100 0x1042 .user flagZ [(.r1, 0x7FFF), (.r2, 0x0001)] []) .r0 =
      some (0x8000, 0x0101, flagN, .user) := by decide

/-- 95_test_vectors.md section 2: ADD R3, R3, R3 (same register). -/
theorem test_add_same_register :
    after (start 0x0100 0x16C3 .user flagZ [(.r3, 0x4000)] []) .r3 =
      some (0x8000, 0x0101, flagN, .user) := by decide

/-- 95_test_vectors.md section 2: MUL R0, R1, R2 (-3 * 5). -/
theorem test_mul_keeps_low_word :
    after (start 0x0100 0x104A .user flagZ [(.r1, 0xFFFD), (.r2, 0x0005)] []) .r0 =
      some (0xFFF1, 0x0101, flagN, .user) := by decide

/-- 95_test_vectors.md section 2: MUL R0, R1, R2 (wraps to 0). -/
theorem test_mul_wraps_to_zero :
    after (start 0x0100 0x104A .user flagZ [(.r1, 0x0100), (.r2, 0x0100)] []) .r0 =
      some (0x0000, 0x0101, flagZ, .user) := by decide

/-- 95_test_vectors.md section 2: SUB R0, R1, R2. -/
theorem test_sub_order_of_operands :
    after (start 0x0100 0x1052 .user flagZ [(.r1, 0x0000), (.r2, 0x0001)] []) .r0 =
      some (0xFFFF, 0x0101, flagN, .user) := by decide

/-- 95_test_vectors.md section 2: SUB R0, R1, R2 (-32768 - 1). -/
theorem test_sub_signed_overflow :
    after (start 0x0100 0x1052 .user flagZ [(.r1, 0x8000), (.r2, 0x0001)] []) .r0 =
      some (0x7FFF, 0x0101, flagP, .user) := by decide

/-- 95_test_vectors.md section 2: DIV R0, R1, R2 (0xFFFF / 2, unsigned). -/
theorem test_div_unsigned :
    after (start 0x0100 0x105A .user flagZ [(.r1, 0xFFFF), (.r2, 0x0002)] []) .r0 =
      some (0x7FFF, 0x0101, flagP, .user) := by decide

/-- 95_test_vectors.md section 2: DIV R0, R1, R2 (-7 / 2, signed). -/
theorem test_div_signed_truncates :
    after { start 0x0100 0x105A .user flagZ [(.r1, 0xFFF9), (.r2, 0x0002)] [] with cfg := { defaultConfig with divSigned := true } } .r0 =
      some (0xFFFD, 0x0101, flagN, .user) := by decide

/-- 95_test_vectors.md section 2: ADDI R0, R1, #-16. -/
theorem test_addi_negative :
    after (start 0x0100 0x1070 .user flagZ [(.r1, 0x0010)] []) .r0 =
      some (0x0000, 0x0101, flagZ, .user) := by decide

/-- 95_test_vectors.md section 2: ADDI R0, R1, #-1 (0 - 1). -/
theorem test_addi_below_zero :
    after (start 0x0100 0x107F .user flagZ [(.r1, 0x0000)] []) .r0 =
      some (0xFFFF, 0x0101, flagN, .user) := by decide

/-- 95_test_vectors.md section 2: AND R0, R1, R2. -/
theorem test_and_masks :
    after (start 0x0100 0x5042 .user flagZ [(.r1, 0xF0F0), (.r2, 0x3C3C)] []) .r0 =
      some (0x3030, 0x0101, flagP, .user) := by decide

/-- 95_test_vectors.md section 2: NOT R0, R1. -/
theorem test_not_complements :
    after (start 0x0100 0x5048 .user flagZ [(.r1, 0xFFFF)] []) .r0 =
      some (0x0000, 0x0101, flagZ, .user) := by decide

/-- 95_test_vectors.md section 2: OR R0, R1, R2. -/
theorem test_or_joins :
    after (start 0x0100 0x5052 .user flagZ [(.r1, 0xF0F0), (.r2, 0x0F0F)] []) .r0 =
      some (0xFFFF, 0x0101, flagN, .user) := by decide

/-- 95_test_vectors.md section 2: XOR R0, R1, R1. -/
theorem test_xor_clears :
    after (start 0x0100 0x5059 .user flagZ [(.r1, 0x1234)] []) .r0 =
      some (0x0000, 0x0101, flagZ, .user) := by decide

/-- 95_test_vectors.md section 2: ANDI R0, R1, #-16. -/
theorem test_andi_sign_extends :
    after (start 0x0100 0x5070 .user flagZ [(.r1, 0x1234)] []) .r0 =
      some (0x1230, 0x0101, flagP, .user) := by decide

/-- 95_test_vectors.md section 2: ANDI R0, R1, #15. -/
theorem test_andi_positive :
    after (start 0x0100 0x506F .user flagZ [(.r1, 0x1234)] []) .r0 =
      some (0x0004, 0x0101, flagP, .user) := by decide

/-- 95_test_vectors.md section 2: SLL R0, R1, #15. -/
theorem test_sll_by_fifteen :
    after (start 0x0100 0xA04F .user flagZ [(.r1, 0x0003)] []) .r0 =
      some (0x8000, 0x0101, flagN, .user) := by decide

/-- 95_test_vectors.md section 2: SLL R0, R1, #4. -/
theorem test_sll_by_four :
    after (start 0x0100 0xA044 .user flagZ [(.r1, 0x1234)] []) .r0 =
      some (0x2340, 0x0101, flagP, .user) := by decide

/-- 95_test_vectors.md section 2: SRA R0, R1, #15. -/
theorem test_sra_copies_sign :
    after (start 0x0100 0xA05F .user flagZ [(.r1, 0x8000)] []) .r0 =
      some (0xFFFF, 0x0101, flagN, .user) := by decide

/-- 95_test_vectors.md section 2: SRA R0, R1, #4. -/
theorem test_sra_positive :
    after (start 0x0100 0xA054 .user flagZ [(.r1, 0x7FF0)] []) .r0 =
      some (0x07FF, 0x0101, flagP, .user) := by decide

/-- 95_test_vectors.md section 2: SRL R0, R1, #4. -/
theorem test_srl_shifts_zeros_in :
    after (start 0x0100 0xA064 .user flagZ [(.r1, 0xFFFF)] []) .r0 =
      some (0x0FFF, 0x0101, flagP, .user) := by decide

/-- 95_test_vectors.md section 2: SRL R0, R1, #15. -/
theorem test_srl_by_fifteen :
    after (start 0x0100 0xA06F .user flagZ [(.r1, 0x8000)] []) .r0 =
      some (0x0001, 0x0101, flagP, .user) := by decide

/-- 95_test_vectors.md section 2: MOD R0, R1, R2 (-7 mod 3, signed). -/
theorem test_mod_signed_dividend :
    after { start 0x0100 0xA072 .user flagZ [(.r1, 0xFFF9), (.r2, 0x0003)] [] with cfg := { defaultConfig with divSigned := true } } .r0 =
      some (0xFFFF, 0x0101, flagN, .user) := by decide

/-- 95_test_vectors.md section 2: MOD R0, R1, R2 (by zero). -/
theorem test_mod_by_zero :
    after (start 0x0100 0xA072 .user flagZ [(.r1, 0x0007), (.r2, 0x0000)] []) .r0 =
      some (0x0000, 0x0101, flagZ, .user) := by decide

/-- 95_test_vectors.md section 2: CONST R0, #-256. -/
theorem test_const_minimum :
    after (start 0x0100 0x9100 .user flagZ [] []) .r0 =
      some (0xFF00, 0x0101, flagN, .user) := by decide

/-- 95_test_vectors.md section 2: CONST R0, #-1 (NZP_ON_CONST false). -/
theorem test_const_without_flags :
    after { start 0x0100 0x91FF .user flagZ [] [] with cfg := { defaultConfig with nzpOnConst := false } } .r0 =
      some (0xFFFF, 0x0101, flagZ, .user) := by decide

/-- 95_test_vectors.md section 2: HICONST R0, x12. -/
theorem test_hiconst_keeps_low_byte :
    after (start 0x0100 0xD112 .user flagZ [(.r0, 0xFF34)] []) .r0 =
      some (0x1234, 0x0101, flagP, .user) := by decide

/-- 95_test_vectors.md section 2: HICONST R0, x12, bit 8 clear. -/
theorem test_hiconst_bit_eight_clear :
    after (start 0x0100 0xD012 .user flagZ [(.r0, 0xFF34)] []) .r0 =
      some (0x1234, 0x0101, flagP, .user) := by decide

/-- 95_test_vectors.md section 2: CMP R1, R2 (0x7FFF vs 0x8000). -/
theorem test_cmp_signed :
    after (start 0x0100 0x2202 .user flagZ [(.r1, 0x7FFF), (.r2, 0x8000)] []) .r7 =
      some (0x0000, 0x0101, flagP, .user) := by decide

/-- 95_test_vectors.md section 2: CMP R1, R2, bits 6:3 = 1111. -/
theorem test_cmp_ignored_bits :
    after (start 0x0100 0x227A .user flagZ [(.r1, 0x0005), (.r2, 0x0007)] []) .r7 =
      some (0x0000, 0x0101, flagN, .user) := by decide

/-- 95_test_vectors.md section 2: CMPU R1, R2 (0x7FFF vs 0x8000). -/
theorem test_cmpu_unsigned :
    after (start 0x0100 0x2282 .user flagZ [(.r1, 0x7FFF), (.r2, 0x8000)] []) .r7 =
      some (0x0000, 0x0101, flagN, .user) := by decide

/-- 95_test_vectors.md section 2: CMPU R1, R2. -/
theorem test_cmpu_greater :
    after (start 0x0100 0x2282 .user flagZ [(.r1, 0xFFFF), (.r2, 0x0001)] []) .r7 =
      some (0x0000, 0x0101, flagP, .user) := by decide

/-- 95_test_vectors.md section 2: CMPI R1, #-64. -/
theorem test_cmpi_negative_immediate :
    after (start 0x0100 0x2340 .user flagZ [(.r1, 0xFF9C)] []) .r7 =
      some (0x0000, 0x0101, flagN, .user) := by decide

/-- 95_test_vectors.md section 2: CMPI R1, #63. -/
theorem test_cmpi_equal :
    after (start 0x0100 0x233F .user flagZ [(.r1, 0x003F)] []) .r7 =
      some (0x0000, 0x0101, flagZ, .user) := by decide

/-- 95_test_vectors.md section 2: CMPIU R1, #127. -/
theorem test_cmpiu_large_immediate :
    after (start 0x0100 0x23FF .user flagZ [(.r1, 0x0005)] []) .r7 =
      some (0x0000, 0x0101, flagN, .user) := by decide

/-- 95_test_vectors.md section 2: CMPIU R1, #0. -/
theorem test_cmpiu_zero :
    after (start 0x0100 0x2380 .user flagZ [(.r1, 0x0000)] []) .r7 =
      some (0x0000, 0x0101, flagZ, .user) := by decide

/-- 95_test_vectors.md section 2: LDR R0, R1, #-1 (OS, 0x0000 - 1 wraps). -/
theorem test_ldr_negative_offset_wraps :
    after (start 0x0100 0x607F .os flagZ [(.r1, 0x0000)] [(0xFFFF, 0x0042)]) .r0 =
      some (0x0042, 0x0101, flagP, .os) := by decide

/-- 95_test_vectors.md section 2: LDR R1, R1, #0 (base overwritten). -/
theorem test_ldr_base_overwritten :
    after (start 0x0100 0x6240 .user flagZ [(.r1, 0x5000)] [(0x5000, 0x0000)]) .r1 =
      some (0x0000, 0x0101, flagZ, .user) := by decide

/-- 95_test_vectors.md section 2: STR R2, R1, #3. -/
theorem test_str_stores_field_a :
    cell (start 0x0100 0x7443 .user flagZ [(.r1, 0x4000), (.r2, 0xFFF9)] []) 0x4003 =
      some (0xFFF9, 0x0101, flagZ, .user) := by decide

/-- 95_test_vectors.md section 2: STR R2, R1, #0 (OS, into OS code). -/
theorem test_str_into_os_code :
    cell (start 0x0100 0x7440 .os flagZ [(.r1, 0x9000), (.r2, 0xABCD)] []) 0x9000 =
      some (0xABCD, 0x0101, flagZ, .os) := by decide

/-- 95_test_vectors.md section 2: NOP #-3. -/
theorem test_nop_ignores_offset :
    after (start 0x0004 0x01FD .user flagP [] []) .r7 =
      some (0x0000, 0x0005, flagP, .user) := by decide

/-- 95_test_vectors.md section 2: NOP at 0x9FFF. -/
theorem test_nop_at_code_end :
    stop (start 0x9FFF 0x0000 .os flagZ [] []) =
      some (.pcInReservedRange 0xA000 0x9FFF) := by decide

/-- 95_test_vectors.md section 2: BRp #-3. -/
theorem test_brp_taken :
    after (start 0x0004 0x03FD .user flagP [] []) .r7 =
      some (0x0000, 0x0002, flagP, .user) := by decide

/-- 95_test_vectors.md section 2: BRp #-3. -/
theorem test_brp_not_on_zero :
    after (start 0x0004 0x03FD .user flagZ [] []) .r7 =
      some (0x0000, 0x0005, flagZ, .user) := by decide

/-- 95_test_vectors.md section 2: BRz #-3. -/
theorem test_brz_taken :
    after (start 0x0004 0x05FD .user flagZ [] []) .r7 =
      some (0x0000, 0x0002, flagZ, .user) := by decide

/-- 95_test_vectors.md section 2: BRz #0 at 0x1FFF, taken. -/
theorem test_brz_taken_to_reserved :
    stop (start 0x1FFF 0x0400 .user flagZ [] []) =
      some (.invalidJump 0x2000 0x1FFF) := by decide

/-- 95_test_vectors.md section 2: BRzp #-3. -/
theorem test_brzp_taken_on_zero :
    after (start 0x0004 0x07FD .user flagZ [] []) .r7 =
      some (0x0000, 0x0002, flagZ, .user) := by decide

/-- 95_test_vectors.md section 2: BRzp #-3. -/
theorem test_brzp_not_on_negative :
    after (start 0x0004 0x07FD .user flagN [] []) .r7 =
      some (0x0000, 0x0005, flagN, .user) := by decide

/-- 95_test_vectors.md section 2: BRn #-3. -/
theorem test_brn_taken :
    after (start 0x0004 0x09FD .user flagN [] []) .r7 =
      some (0x0000, 0x0002, flagN, .user) := by decide

/-- 95_test_vectors.md section 2: BRn #-256 at 0x0000. -/
theorem test_brn_wraps_below_zero :
    stop (start 0x0000 0x0900 .user flagN [] []) =
      some (.invalidJump 0xFF01 0x0000) := by decide

/-- 95_test_vectors.md section 2: BRnp #-3. -/
theorem test_brnp_taken_on_positive :
    after (start 0x0004 0x0BFD .user flagP [] []) .r7 =
      some (0x0000, 0x0002, flagP, .user) := by decide

/-- 95_test_vectors.md section 2: BRnp #-3. -/
theorem test_brnp_not_on_zero :
    after (start 0x0004 0x0BFD .user flagZ [] []) .r7 =
      some (0x0000, 0x0005, flagZ, .user) := by decide

/-- 95_test_vectors.md section 2: BRnz #-3. -/
theorem test_brnz_taken_on_zero :
    after (start 0x0004 0x0DFD .user flagZ [] []) .r7 =
      some (0x0000, 0x0002, flagZ, .user) := by decide

/-- 95_test_vectors.md section 2: BRnz #-3. -/
theorem test_brnz_not_on_positive :
    after (start 0x0004 0x0DFD .user flagP [] []) .r7 =
      some (0x0000, 0x0005, flagP, .user) := by decide

/-- 95_test_vectors.md section 2: BRnzp #255. -/
theorem test_brnzp_forward :
    after (start 0x0100 0x0EFF .user flagZ [] []) .r7 =
      some (0x0000, 0x0200, flagZ, .user) := by decide

/-- 95_test_vectors.md section 2: BRnzp #-256. -/
theorem test_brnzp_backward :
    after (start 0x0100 0x0F00 .user flagZ [] []) .r7 =
      some (0x0000, 0x0001, flagZ, .user) := by decide

/-- 95_test_vectors.md section 2: JMP #1023. -/
theorem test_jmp_forward :
    after (start 0x0100 0xCBFF .user flagZ [] []) .r7 =
      some (0x0000, 0x0500, flagZ, .user) := by decide

/-- 95_test_vectors.md section 2: JMP #-1024. -/
theorem test_jmp_wraps_below_zero :
    stop (start 0x0100 0xCC00 .user flagZ [] []) =
      some (.invalidJump 0xFD01 0x0100) := by decide

/-- 95_test_vectors.md section 2: JMPR R3 (user mode into OS code). -/
theorem test_jmpr_into_os_code :
    after (start 0x0100 0xC0C0 .user flagZ [(.r3, 0x8000)] []) .r7 =
      some (0x0000, 0x8000, flagZ, .user) := by decide

/-- 95_test_vectors.md section 2: JMPR R3 (to user data). -/
theorem test_jmpr_to_user_data :
    stop (start 0x0100 0xC0C0 .user flagZ [(.r3, 0x2000)] []) =
      some (.invalidJump 0x2000 0x0100) := by decide

/-- 95_test_vectors.md section 2: JSR raw 0x1FF. -/
theorem test_jsr_links :
    after (start 0x0100 0x49FF .user flagZ [] []) .r7 =
      some (0x0101, 0x1FF0, flagP, .user) := by decide

/-- 95_test_vectors.md section 2: JSR raw 0x010 from OS code (PAGE). -/
theorem test_jsr_page :
    after { start 0x8300 0x4810 .os flagZ [] [] with cfg := { defaultConfig with jsrTarget := .page } } .r7 =
      some (0x8301, 0x8100, flagN, .os) := by decide

/-- 95_test_vectors.md section 2: JSRR R7 (old R7 is the target). -/
theorem test_jsrr_reads_before_link :
    after (start 0x0100 0x41C0 .user flagZ [(.r7, 0x0040)] []) .r7 =
      some (0x0101, 0x0040, flagP, .user) := by decide

/-- 95_test_vectors.md section 2: JSRR R3 at 0x1FFF. -/
theorem test_jsrr_at_code_end :
    after (start 0x1FFF 0x40C0 .user flagZ [(.r3, 0x0040)] []) .r7 =
      some (0x2000, 0x0040, flagP, .user) := by decide

/-- 95_test_vectors.md section 2: TRAP x25 (source example). -/
theorem test_trap_enters_os :
    after (start 0x0300 0xF025 .user flagZ [] []) .r7 =
      some (0x0301, 0x8025, flagP, .os) := by decide

/-- 95_test_vectors.md section 2: TRAP x25 (NZP_ON_LINK false). -/
theorem test_trap_without_flags :
    after { start 0x0300 0xF025 .user flagZ [] [] with cfg := { defaultConfig with nzpOnLink := false } } .r7 =
      some (0x0301, 0x8025, flagZ, .os) := by decide

/-- 95_test_vectors.md section 2: RTI (source example, after TRAP). -/
theorem test_rti_returns :
    after (start 0x8025 0x8000 .os flagP [(.r7, 0x0301)] []) .r7 =
      some (0x0301, 0x0301, flagP, .user) := by decide

/-- 95_test_vectors.md section 2: RTI to 0x2000. -/
theorem test_rti_checks_target :
    stop (start 0x8025 0x8000 .os flagZ [(.r7, 0x2000)] []) =
      some (.invalidJump 0x2000 0x8025) := by decide

/-- 95_test_vectors.md section 2: reserved word at 0x1FFF. -/
theorem test_reserved3_at_code_end :
    stop (start 0x1FFF 0x3000 .user flagZ [] []) =
      some (.invalidInstruction 0x3000 0x1FFF) := by decide

/-- 95_test_vectors.md section 2: reserved 0xB123. -/
theorem test_reservedB_stops :
    stop (start 0x0100 0xB123 .user flagZ [] []) =
      some (.invalidInstruction 0xB123 0x0100) := by decide

/-- 95_test_vectors.md section 2: reserved 0xEFFF. -/
theorem test_reservedE_stops :
    stop (start 0x8200 0xEFFF .os flagZ [] []) =
      some (.invalidInstruction 0xEFFF 0x8200) := by decide

/-! ### Ill-formed terms (30_encoding.md R93): one for each check, both ends of each range -/

theorem test_wf_signed_nine :
    (∀ i ∈ [Instr.nop 256, .brp 256, .brz 256, .brzp 256, .brn 256, .brnp 256, .brnz 256, .brnzp 256,
      .const .r0 300, .nop (-257), .brp (-257), .brz (-257), .brzp (-257), .brn (-257), .brnp (-257),
      .brnz (-257), .brnzp (-257), .const .r0 (-257)], i.wf = false) ∧
    (Instr.brz 255).wf = true ∧ (Instr.const .r0 (-256)).wf = true := by decide

theorem test_wf_signed_five :
    (∀ i ∈ [Instr.addi .r0 .r0 16, .addi .r0 .r0 (-17), .andi .r0 .r0 16, .andi .r0 .r0 (-17)],
      i.wf = false) ∧
    (Instr.addi .r7 .r7 (-16)).wf = true ∧ (Instr.andi .r7 .r7 15).wf = true := by decide

theorem test_wf_signed_six :
    (∀ i ∈ [Instr.ldr .r0 .r0 32, .ldr .r0 .r0 (-33), .str .r0 .r0 32, .str .r0 .r0 (-33)],
      i.wf = false) ∧
    (Instr.ldr .r0 .r0 (-32)).wf = true ∧ (Instr.str .r0 .r0 31).wf = true := by decide

theorem test_wf_seven :
    (∀ i ∈ [Instr.cmpi .r0 64, .cmpi .r0 (-65), .cmpiu .r0 128], i.wf = false) ∧
    (Instr.cmpi .r0 (-64)).wf = true ∧ (Instr.cmpiu .r0 127).wf = true := by decide

theorem test_wf_unsigned_four :
    (∀ i ∈ [Instr.sll .r0 .r0 16, .sra .r0 .r0 16, .srl .r0 .r0 16], i.wf = false) ∧
    (Instr.sll .r0 .r0 15).wf = true := by decide

theorem test_wf_signed_eleven :
    (∀ i ∈ [Instr.jmp 1024, .jmp (-1025)], i.wf = false) ∧
    (Instr.jmp 1023).wf = true ∧ (Instr.jmp (-1024)).wf = true := by decide

theorem test_wf_unsigned_eight :
    (∀ i ∈ [Instr.hiconst .r0 256, .trap 256], i.wf = false) ∧
    (Instr.hiconst .r0 255).wf = true ∧ (Instr.trap 255).wf = true := by decide

/-! ### Words written out from the encoding tables (30_encoding.md R94 to R103) -/

theorem test_decode_nop : decode 0b0000_000_111111101#16 = .nop (-3) ∧ encode (.nop (-3)) = 0b0000_000_111111101#16 := by decide
theorem test_decode_brp : decode 0b0000_001_111111101#16 = .brp (-3) ∧ encode (.brp (-3)) = 0b0000_001_111111101#16 := by decide
theorem test_decode_brz : decode 0b0000_010_011111111#16 = .brz 255 ∧ encode (.brz 255) = 0b0000_010_011111111#16 := by decide
theorem test_decode_brzp : decode 0b0000_011_100000000#16 = .brzp (-256) ∧ encode (.brzp (-256)) = 0b0000_011_100000000#16 := by decide
theorem test_decode_brn : decode 0b0000_100_000000001#16 = .brn 1 ∧ encode (.brn 1) = 0b0000_100_000000001#16 := by decide
theorem test_decode_brnp : decode 0b0000_101_111111111#16 = .brnp (-1) ∧ encode (.brnp (-1)) = 0b0000_101_111111111#16 := by decide
theorem test_decode_brnz : decode 0b0000_110_000000100#16 = .brnz 4 ∧ encode (.brnz 4) = 0b0000_110_000000100#16 := by decide
theorem test_decode_brnzp : decode 0b0000_111_111111111#16 = .brnzp (-1) ∧ encode (.brnzp (-1)) = 0b0000_111_111111111#16 := by decide
theorem test_decode_add : decode 0b0001_001_010_000_011#16 = .add .r1 .r2 .r3 ∧ encode (.add .r1 .r2 .r3) = 0b0001_001_010_000_011#16 := by decide
theorem test_decode_mul : decode 0b0001_001_010_001_011#16 = .mul .r1 .r2 .r3 ∧ encode (.mul .r1 .r2 .r3) = 0b0001_001_010_001_011#16 := by decide
theorem test_decode_sub : decode 0b0001_001_010_010_011#16 = .sub .r1 .r2 .r3 ∧ encode (.sub .r1 .r2 .r3) = 0b0001_001_010_010_011#16 := by decide
theorem test_decode_div : decode 0b0001_001_010_011_011#16 = .div .r1 .r2 .r3 ∧ encode (.div .r1 .r2 .r3) = 0b0001_001_010_011_011#16 := by decide
theorem test_decode_addi : decode 0b0001_001_010_1_10000#16 = .addi .r1 .r2 (-16) ∧ encode (.addi .r1 .r2 (-16)) = 0b0001_001_010_1_10000#16 := by decide
theorem test_decode_cmp : decode 0b0010_001_00_0000_010#16 = .cmp .r1 .r2 ∧ encode (.cmp .r1 .r2) = 0b0010_001_00_0000_010#16 := by decide
theorem test_decode_cmpu : decode 0b0010_001_01_0000_010#16 = .cmpu .r1 .r2 ∧ encode (.cmpu .r1 .r2) = 0b0010_001_01_0000_010#16 := by decide
theorem test_decode_cmpi : decode 0b0010_001_10_1000000#16 = .cmpi .r1 (-64) ∧ encode (.cmpi .r1 (-64)) = 0b0010_001_10_1000000#16 := by decide
theorem test_decode_cmpiu : decode 0b0010_001_11_1111111#16 = .cmpiu .r1 127 ∧ encode (.cmpiu .r1 127) = 0b0010_001_11_1111111#16 := by decide
theorem test_decode_jsrr : decode 0b0100_0_00_011_000000#16 = .jsrr .r3 ∧ encode (.jsrr .r3) = 0b0100_0_00_011_000000#16 := by decide
theorem test_decode_jsr : decode 0b0100_1_10000000001#16 = .jsr 0x401#11 ∧ encode (.jsr 0x401#11) = 0b0100_1_10000000001#16 := by decide
theorem test_decode_and : decode 0b0101_001_010_000_011#16 = .and .r1 .r2 .r3 ∧ encode (.and .r1 .r2 .r3) = 0b0101_001_010_000_011#16 := by decide
theorem test_decode_not : decode 0b0101_001_010_001_000#16 = .not .r1 .r2 ∧ encode (.not .r1 .r2) = 0b0101_001_010_001_000#16 := by decide
theorem test_decode_or : decode 0b0101_001_010_010_011#16 = .or .r1 .r2 .r3 ∧ encode (.or .r1 .r2 .r3) = 0b0101_001_010_010_011#16 := by decide
theorem test_decode_xor : decode 0b0101_001_010_011_011#16 = .xor .r1 .r2 .r3 ∧ encode (.xor .r1 .r2 .r3) = 0b0101_001_010_011_011#16 := by decide
theorem test_decode_andi : decode 0b0101_001_010_1_01111#16 = .andi .r1 .r2 15 ∧ encode (.andi .r1 .r2 15) = 0b0101_001_010_1_01111#16 := by decide
theorem test_decode_ldr : decode 0b0110_001_010_100000#16 = .ldr .r1 .r2 (-32) ∧ encode (.ldr .r1 .r2 (-32)) = 0b0110_001_010_100000#16 := by decide
theorem test_decode_str : decode 0b0111_001_010_011111#16 = .str .r1 .r2 31 ∧ encode (.str .r1 .r2 31) = 0b0111_001_010_011111#16 := by decide
theorem test_decode_rti : decode 0b1000_000000000000#16 = .rti ∧ encode (.rti) = 0b1000_000000000000#16 := by decide
theorem test_decode_const : decode 0b1001_001_100000000#16 = .const .r1 (-256) ∧ encode (.const .r1 (-256)) = 0b1001_001_100000000#16 := by decide
theorem test_decode_sll : decode 0b1010_001_010_00_1111#16 = .sll .r1 .r2 15 ∧ encode (.sll .r1 .r2 15) = 0b1010_001_010_00_1111#16 := by decide
theorem test_decode_sra : decode 0b1010_001_010_01_1111#16 = .sra .r1 .r2 15 ∧ encode (.sra .r1 .r2 15) = 0b1010_001_010_01_1111#16 := by decide
theorem test_decode_srl : decode 0b1010_001_010_10_1111#16 = .srl .r1 .r2 15 ∧ encode (.srl .r1 .r2 15) = 0b1010_001_010_10_1111#16 := by decide
theorem test_decode_mod : decode 0b1010_001_010_11_0_011#16 = .mod .r1 .r2 .r3 ∧ encode (.mod .r1 .r2 .r3) = 0b1010_001_010_11_0_011#16 := by decide
theorem test_decode_jmpr : decode 0b1100_0_00_011_000000#16 = .jmpr .r3 ∧ encode (.jmpr .r3) = 0b1100_0_00_011_000000#16 := by decide
theorem test_decode_jmp : decode 0b1100_1_10000000000#16 = .jmp (-1024) ∧ encode (.jmp (-1024)) = 0b1100_1_10000000000#16 := by decide
theorem test_decode_hiconst : decode 0b1101_001_1_10101011#16 = .hiconst .r1 0xAB ∧ encode (.hiconst .r1 0xAB) = 0b1101_001_1_10101011#16 := by decide
theorem test_decode_trap : decode 0b1111_0000_00100101#16 = .trap 0x25 ∧ encode (.trap 0x25) = 0b1111_0000_00100101#16 := by decide
theorem test_decode_reserved3 : decode 0b0011_000000000000#16 = .reserved3 0x000#12 ∧ encode (.reserved3 0x000#12) = 0b0011_000000000000#16 := by decide
theorem test_decode_reservedB : decode 0b1011_000100100011#16 = .reservedB 0x123#12 ∧ encode (.reservedB 0x123#12) = 0b1011_000100100011#16 := by decide
theorem test_decode_reservedE : decode 0b1110_111111111111#16 = .reservedE 0xFFF#12 ∧ encode (.reservedE 0xFFF#12) = 0b1110_111111111111#16 := by decide

/-- 95_test_vectors.md section 1.8: words that are not canonical decode to the canonical word's instruction. -/
theorem test_decode_ignored_bits :
    decode 0xD012#16 = decode 0xD112#16 ∧ decode 0x227A#16 = decode 0x2202#16 ∧
    decode 0x8FFF#16 = .rti ∧ decode 0x5048#16 = decode 0x504F#16 ∧
    decode 0xA07A#16 = decode 0xA072#16 ∧ decode 0xF125#16 = .trap 0x25 ∧
    decode 0x46FF#16 = .jsrr .r3 ∧ decode 0xC6FF#16 = .jmpr .r3 := by decide

/-- The row interface: a row's word is decoded whole, and the next step from reset runs it. -/
theorem test_table_word :
    decodeTableWord 16 0x1042 = some (.add .r0 .r1 .r2) ∧
    decodeTableWord 16 0xEFFF = some (.reservedE 0xFFF#12) ∧
    decodeBytes [0x10] = .error .truncated ∧
    after (State.reset.withFetchWord 16 0x9105) .r0 = some (0xFF05, 0x8201, flagN, .os) := by decide

/-- 95_test_vectors.md section 1.10, first three rows: object bytes and the words they load. -/
theorem test_load_records :
    (load [0xCA, 0xDE, 0, 0, 0, 2, 0x90, 0, 0x0F, 0xFF] State.reset).1.mem.readWord 1 = 0x0FFF ∧
    (load [0xC3, 0xB7, 0, 0, 0, 3, 0x66, 0x6F, 0x6F, 0xCA, 0xDE, 0, 0x10, 0, 1, 0x10, 0]
      State.reset).1.mem.readWord 0x0010 = 0x1000 ∧
    (load [0xDA, 0xDA, 0x40, 0, 0, 1, 0xFF, 0xF9] State.reset).1.mem.readWord 0x4000 = 0xFFF9 := by
  decide

/-- 95_test_vectors.md section 1.10, last three rows: the load errors. -/
theorem test_load_errors :
    load [0xCA, 0xDE, 0, 0, 0, 5, 0x90, 0] State.reset =
      (State.reset, some { kind := .truncatedStream, byteOffset := 0 }) ∧
    (load [0xCA, 0xDE, 0, 0, 0, 1, 0x90, 0, 0x12, 0x34] State.reset).1.mem.readWord 0 = 0x9000 ∧
    (load [0xCA, 0xDE, 0, 0, 0, 1, 0x90, 0, 0x12, 0x34] State.reset).2 =
      some { kind := .unrecognizedTag, byteOffset := 8 } ∧
    load [0xCA, 0xDE, 0xFF, 0xFF, 0, 2, 0, 0, 0, 0] State.reset =
      (State.reset, some { kind := .addressOutOfRange, byteOffset := 0 }) := by decide

/-- 95_test_vectors.md section 1.9: the expansions and the words they encode to. -/
theorem test_expansions :
    (expandLea .r1 0x81FF).map encode = [0x93FF, 0xD381] ∧
    (expandLc .r2 0xFFF9).map encode = [0x95F9] ∧ (expandLc .r2 0x00FF).map encode = [0x94FF] ∧
    (expandLc .r2 0x012C).map encode = [0x952C, 0xD501] ∧ expandRet.map encode = [0xC1C0] := by
  decide

/-- 95_test_vectors.md section 1.9 and R112, R114: named constants, an absent name, and the literal
directive at both ends of its range. -/
theorem test_named_constants :
    (expandLcNamed .r2 [([0x4E], 300), ([0x4D], -7)] [0x4D]).map (List.map encode) = .ok [0x95F9] ∧
    (expandLcNamed .r2 [([0x4E], 300), ([0x4D], -7)] [0x4E]).map (List.map encode) =
      .ok [0x952C, 0xD501] ∧
    expandLcNamed .r2 [([0x4E], 300)] [0x4D] = .error .absentName ∧
    fillWords (-32768) = .ok [0x8000] ∧ fillWords 32767 = .ok [0x7FFF] ∧
    stringWords [0x41, 0xFF] = [0x0041, 0x00FF, 0x0000] ∧ blockWords 2 = [0, 0] := by decide

/-! ### A state and operands for every statement with hypotheses -/

/-- The last user code words that can advance, and the last one of all (R142). -/
def inner : State := start 0x1FFE 0 .user flagZ [(.r1, 0xFFF9), (.r2, 2)] []
def edge : State := start 0x1FFF 0 .user flagZ [(.r1, 0xFFF9), (.r2, 2)] []

/-- The same two in OS code. -/
def innerOs : State := start 0x9FFE 0 .os flagZ [(.r1, 0xFFF9), (.r2, 2)] []
def edgeOs : State := start 0x9FFF 0 .os flagZ [(.r1, 0xFFF9), (.r2, 2)] []

/-- `inner` with the other value of each parameter. -/
def innerAlt : State :=
  { inner with
    cfg :=
      { nzpOnConst := false
        nzpOnLink := false
        divSigned := true
        jsrTarget := .page
        userCodeDataFault := false } }

/-- Both outcomes of the straight-line guard, at the boundary of both code regions. -/
abbrev AdvanceBoundaries : Prop :=
  CodeAddress (inner.pc + 1#16) ∧ CodeAddress (innerOs.pc + 1#16) ∧
    ¬ CodeAddress (edge.pc + 1#16) ∧ ¬ CodeAddress (edgeOs.pc + 1#16)

theorem witness_AddWritesTheSum :
    (0xFFFB#16 = inner.reg .r1 + inner.reg .r2) ∧
      AdvanceBoundaries := by decide

theorem witness_MulWritesTheLowProduct :
    (0xFFF2#16 = BitVec.ofNat 16 ((inner.reg .r1).toNat * (inner.reg .r2).toNat)) ∧
      AdvanceBoundaries := by decide

theorem witness_SubWritesTheDifference :
    (0xFFF7#16 = inner.reg .r1 - inner.reg .r2) ∧
      AdvanceBoundaries := by decide

theorem witness_DivWritesTheQuotient :
    (inner.reg .r0 = 0#16 ∧ innerAlt.reg .r2 ≠ 0#16 ∧ innerAlt.cfg.divSigned = true ∧
      0xFFFD#16 = BitVec.ofInt 16 ((innerAlt.reg .r1).toInt.tdiv (innerAlt.reg .r2).toInt) ∧
      inner.reg .r2 ≠ 0#16 ∧ inner.cfg.divSigned = false ∧
      0x7FFC#16 = BitVec.ofNat 16 ((inner.reg .r1).toNat / (inner.reg .r2).toNat)) ∧
      AdvanceBoundaries := by decide

theorem witness_AddiAddsTheSignedImmediate :
    (0xFFF8#16 = inner.reg .r1 + (0x1F#5).signExtend 16) ∧
      AdvanceBoundaries := by decide

theorem witness_AndWritesTheConjunction :
    (0x0000#16 = inner.reg .r1 &&& inner.reg .r2) ∧
      AdvanceBoundaries := by decide

theorem witness_NotWritesTheComplement :
    (0x0006#16 = ~~~ (inner.reg .r1)) ∧
      AdvanceBoundaries := by decide

theorem witness_OrWritesTheDisjunction :
    (0xFFFB#16 = inner.reg .r1 ||| inner.reg .r2) ∧
      AdvanceBoundaries := by decide

theorem witness_XorWritesTheExclusiveOr :
    (0xFFFB#16 = inner.reg .r1 ^^^ inner.reg .r2) ∧
      AdvanceBoundaries := by decide

theorem witness_AndiMasksWithTheSignedImmediate :
    (0xFFF0#16 = inner.reg .r1 &&& (0x10#5).signExtend 16) ∧
      AdvanceBoundaries := by decide

theorem witness_SllShiftsZerosInFromTheRight :
    (0x8000#16 = inner.reg .r1 <<< (0xF#4).toNat) ∧
      AdvanceBoundaries := by decide

theorem witness_SraShiftsCopiesOfTheSignIn :
    (0xFFFF#16 = (inner.reg .r1).sshiftRight (0xF#4).toNat) ∧
      AdvanceBoundaries := by decide

theorem witness_SrlShiftsZerosInFromTheLeft :
    (0x0001#16 = inner.reg .r1 >>> (0xF#4).toNat) ∧
      AdvanceBoundaries := by decide

theorem witness_ModWritesTheRemainder :
    (inner.reg .r0 = 0#16 ∧ innerAlt.reg .r2 ≠ 0#16 ∧ innerAlt.cfg.divSigned = true ∧
      0xFFFF#16 = BitVec.ofInt 16 ((innerAlt.reg .r1).toInt -
        (innerAlt.reg .r2).toInt * (innerAlt.reg .r1).toInt.tdiv (innerAlt.reg .r2).toInt) ∧
      inner.reg .r2 ≠ 0#16 ∧ inner.cfg.divSigned = false ∧
      0x0001#16 = BitVec.ofNat 16 ((inner.reg .r1).toNat % (inner.reg .r2).toNat)) ∧
      AdvanceBoundaries := by decide

theorem witness_ConstWritesTheSignedImmediate :
    (0xFF00#16 = (0x100#9).signExtend 16) ∧
      AdvanceBoundaries := by decide

theorem witness_HiconstReplacesTheHighByte :
    (0x12F9#16 = (inner.reg .r1 &&& 0x00FF#16) ||| ((0x12#8).setWidth 16 <<< 8)) ∧
      AdvanceBoundaries := by decide

theorem witness_CmpComparesSignedRegisters : AdvanceBoundaries := by decide

theorem witness_CmpuComparesUnsignedRegisters : AdvanceBoundaries := by decide

theorem witness_CmpiComparesTheSignedImmediate : AdvanceBoundaries := by decide

theorem witness_CmpiuComparesTheUnsignedImmediate : AdvanceBoundaries := by decide

theorem witness_LdrLoadsTheAddressedWord :
    (let s := start 0x1FFE 0 .user flagZ [(.r1, 0x7FFE)] [];
      0x7FFF#16 = effectiveAddress (s.reg .r1) 1 ∧ DataAllowed s 0x7FFF#16 ∧
        CodeAddress (s.pc + 1#16)) ∧
    (let s := start 0x1FFE 0 .user flagZ [(.r1, 0x2001)] [];
      0x2000#16 = effectiveAddress (s.reg .r1) (-1) ∧ DataAllowed s 0x2000#16 ∧
        CodeAddress (s.pc + 1#16)) ∧
    (let s := start 0x9FFE 0 .os flagZ [(.r1, 0x8000)] [];
      0x8000#16 = effectiveAddress (s.reg .r1) 0 ∧ DataAllowed s 0x8000#16 ∧
        CodeAddress (s.pc + 1#16)) ∧
    (let s := start 0x1FFE 0 .user flagZ [(.r1, 0x7FFF)] [];
      0x8000#16 = effectiveAddress (s.reg .r1) 1 ∧ OsAddress 0x8000#16 ∧ s.psr.mode = .user) ∧
    (let s := start 0x9FFE 0 .os flagZ [(.r1, 0x2000)] [];
      0x1FFF#16 = effectiveAddress (s.reg .r1) (-1) ∧ s.cfg.userCodeDataFault = true ∧
        (0x1FFF#16).toNat < 0x2000) ∧
    (let s := start 0x1FFF 0 .user flagZ [(.r1, 0x7FFE)] [];
      0x7FFF#16 = effectiveAddress (s.reg .r1) 1 ∧ DataAllowed s 0x7FFF#16 ∧
        ¬ CodeAddress (s.pc + 1#16)) := by decide

theorem witness_StrStoresOneWord :
    (let s := start 0x1FFE 0 .user flagZ [(.r1, 0x7FFE)] [];
      0x7FFF#16 = effectiveAddress (s.reg .r1) 1 ∧ DataAllowed s 0x7FFF#16 ∧
        CodeAddress (s.pc + 1#16)) ∧
    (let s := start 0x1FFE 0 .user flagZ [(.r1, 0x2001)] [];
      0x2000#16 = effectiveAddress (s.reg .r1) (-1) ∧ DataAllowed s 0x2000#16 ∧
        CodeAddress (s.pc + 1#16)) ∧
    (let s := start 0x9FFE 0 .os flagZ [(.r1, 0x8000)] [];
      0x8000#16 = effectiveAddress (s.reg .r1) 0 ∧ DataAllowed s 0x8000#16 ∧
        CodeAddress (s.pc + 1#16)) ∧
    (let s := start 0x1FFE 0 .user flagZ [(.r1, 0x7FFF)] [];
      0x8000#16 = effectiveAddress (s.reg .r1) 1 ∧ OsAddress 0x8000#16 ∧ s.psr.mode = .user) ∧
    (let s := start 0x9FFE 0 .os flagZ [(.r1, 0x2000)] [];
      0x1FFF#16 = effectiveAddress (s.reg .r1) (-1) ∧ s.cfg.userCodeDataFault = true ∧
        (0x1FFF#16).toNat < 0x2000) ∧
    (let s := start 0x1FFF 0 .user flagZ [(.r1, 0x7FFE)] [];
      0x7FFF#16 = effectiveAddress (s.reg .r1) 1 ∧ DataAllowed s 0x7FFF#16 ∧
        ¬ CodeAddress (s.pc + 1#16)) := by decide

theorem witness_BranchesFollowTheirCondition :
    (0x1FFF#16 = edge.pc + 1#16 + (0x1FF#9).signExtend 16 ∧ BranchCondition 0b010#3 edge.psr.nzp ∧
      CodeAddress 0x1FFF#16) ∧
    (0x2000#16 = edge.pc + 1#16 + (0x000#9).signExtend 16 ∧ BranchCondition 0b111#3 edge.psr.nzp ∧
      ¬ CodeAddress 0x2000#16) ∧
    (¬ BranchCondition 0b101#3 inner.psr.nzp ∧ CodeAddress (inner.pc + 1#16)) ∧
    (¬ BranchCondition 0b000#3 edge.psr.nzp ∧ ¬ CodeAddress (edge.pc + 1#16)) := by decide

theorem witness_JmpGoesToItsRelativeTarget :
    (0x1FFF#16 = edge.pc + 1#16 + (0x7FF#11).signExtend 16 ∧ CodeAddress 0x1FFF#16) ∧
    (0x2000#16 = edge.pc + 1#16 + (0x000#11).signExtend 16 ∧ ¬ CodeAddress 0x2000#16) := by decide

/-- Register targets at both ends of both code regions. -/
abbrev TargetBoundaries : Prop :=
  CodeAddress ((start 0 0 .user flagZ [(.r3, 0x1FFF)] []).reg .r3) ∧
  CodeAddress ((start 0 0 .user flagZ [(.r3, 0x8000)] []).reg .r3) ∧
  CodeAddress ((start 0 0 .user flagZ [(.r3, 0x9FFF)] []).reg .r3) ∧
  ¬ CodeAddress ((start 0 0 .user flagZ [(.r3, 0x2000)] []).reg .r3) ∧
  ¬ CodeAddress ((start 0 0 .user flagZ [(.r3, 0x7FFF)] []).reg .r3) ∧
  ¬ CodeAddress ((start 0 0 .user flagZ [(.r3, 0xA000)] []).reg .r3)

theorem witness_JmprGoesToItsRegister : TargetBoundaries := by decide

theorem witness_JsrLinksAndGoesToItsTarget :
    (inner.cfg.jsrTarget = .abs ∧ 0x1FF0#16 = (0x1FF#11).signExtend 16 <<< 4 ∧
      CodeAddress 0x1FF0#16) ∧
    (0x2000#16 = (0x200#11).signExtend 16 <<< 4 ∧ ¬ CodeAddress 0x2000#16) ∧
    (innerAlt.cfg.jsrTarget = .page ∧
      0x1FF0#16 = (innerAlt.pc &&& 0x8000#16) ||| ((0x1FF#11).setWidth 16 <<< 4)) := by decide

theorem witness_JsrrLinksAndGoesToItsRegister : TargetBoundaries := by decide

theorem witness_RtiReturnsThroughR7InUserMode :
    CodeAddress ((start 0x8025 0 .os flagZ [(.r7, 0x1FFF)] []).reg .r7) ∧
    ¬ CodeAddress ((start 0x8025 0 .os flagZ [(.r7, 0x2000)] []).reg .r7) := by decide

theorem witness_ReservedWordsRaiseInvalidInstruction :
    (let s := start 0x1FFF 0x3000 .user flagZ [] [];
      CodeAddress s.pc ∧ (decode (s.mem.readWord s.pc)).isReserved = true) ∧
    (let s := start 0x8000 0xBFFF .os flagZ [] [];
      CodeAddress s.pc ∧ (decode (s.mem.readWord s.pc)).isReserved = true) ∧
    (let s := start 0x9FFF 0xEFFF .os flagZ [] [];
      CodeAddress s.pc ∧ (decode (s.mem.readWord s.pc)).isReserved = true) := by decide

theorem witness_StepRunsTheDecodedInstruction :
    let s := start 0x1FFF 0x1042 .user flagZ [] [];
    CodeAddress s.pc ∧ (Instr.add .r0 .r1 .r2).wf = true ∧
      decode (wordOfBytes (s.mem.readByte (highKey s.pc)) (s.mem.readByte (lowKey s.pc))) =
        .add .r0 .r1 .r2 ∧
      s.mem.readWord s.pc = encode (.add .r0 .r1 .r2) := by decide

theorem witness_FetchGuardStopsAtNonCodeAddresses :
    ¬ CodeAddress (start 0x2000 0 .os flagZ [] []).pc ∧
    ¬ CodeAddress (start 0x7FFF 0 .os flagZ [] []).pc ∧
    ¬ CodeAddress (start 0xA000 0 .os flagZ [] []).pc ∧
    ¬ CodeAddress (start 0xFFFF 0 .os flagZ [] []).pc := by decide

theorem witness_DecodeInvertsEncode :
    (Instr.jmp (-1024)).wf = true ∧ (Instr.cmpiu .r5 127).wf = true ∧
    (∀ n ∈ [4, 5, 6, 7, 8, 9, 11], fitsSigned n (-(2 : Int) ^ (n - 1)) = true ∧
      fitsSigned n ((2 : Int) ^ (n - 1) - 1) = true ∧ fitsUnsigned n 0 = true ∧
      fitsUnsigned n (2 ^ n - 1) = true) := by decide

theorem witness_DecodeFollowsTheOpcodeTable :
    0x227A#16 &&& (Instr.cmp .r1 .r2).row.mask = (Instr.cmp .r1 .r2).row.pattern := by decide

theorem witness_IgnoredBitsDoNotMatter :
    0x227A#16 &&& ~~~ (decode 0x227A#16).ignoredBits =
      0x2202#16 &&& ~~~ (decode 0x227A#16).ignoredBits ∧
    (Instr.trap 0x25).ignoredBits ≠ 0x0000#16 := by decide

theorem witness_StepKeepsTheInvariant :
    State.reset.Inv ∧
      step State.reset = .next ({ State.reset with pc := 0x8201 } : State) :=
  ⟨by decide, rfl⟩

theorem witness_ResetMeetsTheInvariant : State.reset.Inv := by decide

theorem witness_ResetStateIsTheSpecs :
    State.reset = State.reset ∧ hostReset inner = State.reset := by decide

theorem witness_OnlyTrapRtiAndResetChangeTheMode :
    (let s := start 0x0300 0xF025 .user flagZ [] [];
      decode (s.mem.readWord s.pc) = .trap 0x25 ∧ (after s .r7).isSome = true) ∧
    (let s := start 0x8025 0x8000 .os flagZ [] [];
      decode (s.mem.readWord s.pc) = .rti ∧ (after s .r7).isSome = true) ∧
    (let s := start 0x8025 0x0000 .os flagZ [] [];
      decode (s.mem.readWord s.pc) = .nop 0 ∧ (after s .r7).isSome = true) := by decide

theorem witness_ModeMattersOnlyForOsData :
    (let s := start 0x0100 0 .user flagZ [(.r1, 0x8000)] [];
      dataAddress s (.ldr .r0 .r1 0) = some 0x8000#16 ∧ OsAddress 0x8000#16) ∧
    (let s := start 0x0100 0 .user flagZ [(.r1, 0x7FFF)] [];
      dataAddress s (.str .r0 .r1 0) = some 0x7FFF#16 ∧ ¬ OsAddress 0x7FFF#16) ∧
    dataAddress inner (.add .r0 .r1 .r2) = none ∧
    exec (.jmpr .r0) (inner.withMode .user) = .next { inner with pc := 0 } ∧
    exec (.jmpr .r2) (edge.withMode .user) = .next { edge with pc := 2 } :=
  ⟨by decide, by decide, by decide, rfl, rfl⟩

/-- Two states that differ at both ends of the OS data region. -/
theorem witness_UserStepsIgnoreOsData :
    AgreeOutsideOsData (start 0x0100 0x6040 .user flagZ [(.r1, 0x9000)] [])
      (start 0x0100 0x6040 .user flagZ [(.r1, 0x9000)] [(0xA000, 1), (0xFFFF, 2)]) ∧
    stop (start 0x0100 0x6040 .user flagZ [(.r1, 0x9000)] []) =
      some (.invalidMemoryAccess true 0x0100) ∧
    AgreeOutsideOsData (start 0x0100 0x6040 .user flagZ [(.r1, 0x4000)] [])
      (start 0x0100 0x6040 .user flagZ [(.r1, 0x4000)] [(0xA000, 1), (0xFFFF, 2)]) ∧
    (after (start 0x0100 0x6040 .user flagZ [(.r1, 0x4000)] []) .r0).isSome = true := by
  have key : ∀ a : Word, a.toNat < 0xA000 → ∀ w : Byte,
      Memory.readWord [(0x0200, w), (0x0201, 0x40), (0x14001, 1), (0x1FFFF, 2)] a =
        Memory.readWord [(0x0200, w), (0x0201, 0x40)] a := by
    intro a ha w
    have h1 : highKey a < 0x14000 := by unfold highKey; omega
    have h2 : lowKey a < 0x14000 := by unfold lowKey; omega
    have e1 : (0x14001 : Nat) ≠ highKey a := by omega
    have e2 : (0x1FFFF : Nat) ≠ highKey a := by omega
    have e3 : (0x14001 : Nat) ≠ lowKey a := by omega
    have e4 : (0x1FFFF : Nat) ≠ lowKey a := by omega
    simp only [Memory.readWord, Memory.readByte, e1, e2, e3, e4, if_false]
  have hs : ∀ x, (start 0x0100 0x6040 .user flagZ [(.r1, x)] []).mem =
      [(0x0200, 0x60), (0x0201, 0x40)] := fun _ => by
    show Memory.writeWord [] 0x0100 0x6040 = _; decide
  have ht : ∀ x, (start 0x0100 0x6040 .user flagZ [(.r1, x)] [(0xA000, 1), (0xFFFF, 2)]).mem =
      [(0x0200, 0x60), (0x0201, 0x40), (0x14001, 1), (0x1FFFF, 2)] := fun _ => by
    show Memory.writeWord (Memory.writeWord (Memory.writeWord [] 0x0100 0x6040) 0xA000 1) 0xFFFF 2 = _
    decide
  refine ⟨⟨rfl, rfl, rfl, rfl, fun a ha => ?_⟩, by decide, ⟨rfl, rfl, rfl, rfl, fun a ha => ?_⟩,
    by decide⟩
  · rw [hs, ht]; exact key a ha _
  · rw [hs, ht]; exact key a ha _

theorem witness_ErrorsHaveTheirCause :
    exec (.nop 0) edge = .fault (.pcInReservedRange 0x2000 0x1FFF) ∧ CodeAddress edge.pc ∧
    exec (.nop 0) edgeOs = .fault (.pcInReservedRange 0xA000 0x9FFF) ∧ CodeAddress edgeOs.pc ∧
    branchField (.nop 0) = some 0b000#3 ∧
    exec (.brz 0) edge = .fault (.invalidJump 0x2000 0x1FFF) ∧ branchField (.brz 0) = some 0b010#3 ∧
    exec (.str .r0 .r3 0) { edge with regs := { edge.regs with r3 := 0x2000 } } =
      .fault (.pcInReservedRange 0x2000 0x1FFF) ∧
    dataAddress { edge with regs := { edge.regs with r3 := 0x2000 } } (.str .r0 .r3 0) =
      some 0x2000#16 ∧
    exec (.jmpr .r1) edge = .fault (.invalidJump 0xFFF9 0x1FFF) ∧
    exec (.ldr .r0 .r1 0) edge = .fault (.invalidMemoryAccess true 0x1FFF) ∧
    exec (.ldr .r0 .r2 0) edge = .fault (.invalidMemoryAccess false 0x1FFF) ∧
    exec (.reserved3 0x123) edge = .fault (.invalidInstruction 0x3123 0x1FFF) :=
  ⟨rfl, by decide, rfl, by decide, rfl, rfl, rfl, rfl, by decide, rfl, rfl, rfl, rfl⟩

theorem witness_StepsWriteOnlyWhatTheyName :
    (∃ t, exec (.add .r0 .r1 .r2) inner = .next t) ∧
    destination (.add .r0 .r1 .r2) ≠ some .r1 ∧
    (∃ t, exec (.str .r2 .r1 0) innerOs = .next t) ∧
    storeAddress innerOs (.str .r2 .r1 0) = some 0xFFF9#16 ∧
    (∀ a, storeAddress innerOs (.str .r2 .r1 0) = some a → (0 : Nat) ≠ highKey a ∧ 0 ≠ lowKey a) :=
  ⟨⟨_, rfl⟩, by decide, ⟨_, rfl⟩, by decide, by rintro a ⟨⟩; decide⟩

theorem witness_OnlyFlagWritersChangeTheFlags :
    (∃ t, exec (.add .r0 .r1 .r2) inner = .next t) ∧
    writesFlags inner.cfg (.add .r0 .r1 .r2) = true ∧
    destination (.add .r0 .r1 .r2) = some .r0 ∧
    (∃ t, exec (.const .r0 1) innerAlt = .next t) ∧
    writesFlags innerAlt.cfg (.const .r0 1) = false :=
  ⟨⟨_, rfl⟩, by decide, by decide, ⟨_, rfl⟩, by decide⟩

theorem witness_FlagsFollowTheSignAndFillThePsr :
    (0x8000#16).toInt < 0 ∧ (0xFFFF#16).toInt < 0 ∧ (0x0001#16).toInt > 0 ∧ (0x7FFF#16).toInt > 0 ∧
    State.reset.psr.mode = .os ∧ inner.psr.mode = .user := by decide

theorem witness_AddressMapHolds :
    (0x0000#16).toNat < 0x2000 ∧ (0x1FFF#16).toNat < 0x2000 ∧
    (0x2000 ≤ (0x2000#16).toNat ∧ (0x7FFF#16).toNat < 0x8000) ∧
    (0x8000 ≤ (0x8000#16).toNat ∧ (0x9FFF#16).toNat < 0xA000) ∧
    0xA000 ≤ (0xA000#16).toNat ∧ 0xA000 ≤ (0xFFFF#16).toNat := by decide

theorem witness_DivisionMatchesBitVectorDivision : innerAlt.cfg.divSigned = true := by decide

theorem witness_CanonicalMemoriesAreEqualWhenTheyReadAlike :
    Memory.wf (Memory.writeWord (Memory.writeWord [] 0xFFFF 0x1200) 0 0x0034) ∧
    Memory.writeWord (Memory.writeWord [] 0xFFFF 0x1200) 0 0x0034 = [(1, 0x34), (0x1FFFE, 0x12)] ∧
    ∀ a, Memory.readWord [(1, 0x34), (0x1FFFE, 0x12)] a =
      Memory.readWord [(1, 0x34), (0x1FFFE, 0x12)] a :=
  ⟨by decide, by decide, fun _ => rfl⟩

theorem witness_LeaLoadsItsLabel :
    let s := start 0x1FFD 0 .user flagZ [] [];
    CodeAddress (s.pc + 1#16) ∧ CodeAddress (s.pc + 2#16) := by decide

/-- A constant table with both ends of the range of values. -/
def constants : ConstantTable := [([0x41], 65535), ([0x42], -32768)]

theorem witness_LcLoadsItsValue :
    (∀ i, ([0x43], i) ∉ constants) ∧ (∀ j, ([0x41], j) ∈ constants ↔ j = 65535) ∧
    (∀ j, ([0x42], j) ∈ constants ↔ j = -32768) ∧
    (CodeAddress (inner.pc + 1#16) ∧ (0x00FF#16).extractLsb' 8 8 = 0x00#8) ∧
    (0xFFF9#16).extractLsb' 8 8 = 0xFF#8 ∧
    (let s := start 0x1FFD 0 .user flagZ [] [];
      CodeAddress (s.pc + 1#16) ∧ CodeAddress (s.pc + 2#16) ∧
        (0x012C#16).extractLsb' 8 8 ≠ 0x00#8 ∧ (0x012C#16).extractLsb' 8 8 ≠ 0xFF#8) := by
  refine ⟨?_, ?_, ?_, by decide⟩ <;> simp [constants]

theorem witness_RelocationsInvertTheTargets :
    (∃ d, relocBranch 0x0100 0x0200 = .ok d) ∧ (∃ d, relocJmp 0x0500 0x0101 = .ok d) ∧
    (((0x0200#16).toNat : Int) = (0x0100#16).toNat + 1 + 255 ∧ fitsSigned 9 255 = true) ∧
    (((0x0101#16).toNat : Int) = (0x0500#16).toNat + 1 + -1024 ∧ fitsSigned 11 (-1024) = true) ∧
    inner.cfg.jsrTarget = .abs ∧ (∃ r, relocJsr 0x1FF0 = .ok r) ∧
    CodeAddress (jsrTarget inner.cfg inner.pc 0x1FF#11) :=
  ⟨⟨255, by decide⟩, ⟨-1024, by decide⟩, by decide, by decide, rfl, ⟨0x1FF#11, by decide⟩, by decide⟩

theorem witness_TrapThenRtiReturns :
    CodeAddress (inner.pc + 1#16) ∧ CodeAddress (innerOs.pc + 1#16) := by decide

theorem witness_SelfLoopStaysForever :
    let s := start 0x9FFF 0x0FFF .os flagP [] [];
    CodeAddress s.pc ∧ OneHot s.psr.nzp ∧ s.mem.readWord s.pc = 0x0FFF#16 := by decide

theorem witness_NothingLoadedRunsNopsToTheEnd : (0 : Nat) ≤ 7679 ∧ (7679 : Nat) ≤ 7679 := by decide

theorem witness_LoadedRecordFillsMemory :
    ([0x9000#16, 0x0FFF#16]).length < 65536 ∧
    (0xFFFE#16).toNat + ([0x9000#16, 0x0FFF#16]).length ≤ 65536 ∧
    (0 : Nat) < ([0x9000#16, 0x0FFF#16]).length ∧ (0xFFFD#16).toNat < (0xFFFE#16).toNat ∧
    (load (([0xCADE#16, 0xFFFE#16, 0x0002#16, 0x9000#16, 0x0FFF#16]).flatMap
      (fun w => [highByte w, lowByte w])) inner).1.mem.readWord 0xFFFF#16 = 0x0FFF#16 := by decide

theorem witness_LoadingTouchesOnlyMemory :
    inner.Inv ∧ (load [0xDA, 0xDA, 0x40, 0, 0, 1, 0xFF, 0xF9] inner).2 = none := by decide

theorem witness_TraceRecordsWhatTheStepWrote :
    stop (start 0x1FFF 0x3000 .user flagZ [] []) = some (.invalidInstruction 0x3000 0x1FFF) ∧
    (after (start 0x0100 0x1042 .user flagZ [] []) .r0).isSome = true ∧
    (let s := start 0x0100 0x7443 .user flagZ [(.r1, 0x4000), (.r2, 0xFFF9)] [];
      (after s .r0).isSome = true ∧
        dataAddress s (decode (s.mem.readWord s.pc)) = some 0x4003#16 ∧
        (stepTrace s).map TraceRecord.memValue = some 0xFFF9#16) ∧
    dataAddress inner (decode (inner.mem.readWord inner.pc)) = none := by decide

end Sys2Proof.Tests
end

section
/-! Canonical memories are determined by what they read: a cell is listed exactly when it reads nonzero, so
two sorted lists that read alike have the same cells. -/

namespace Sys2Proof.Machine

open Sys2Proof

/-- A listed cell reads as listed, since its key stands in a sorted list once. -/
theorem Memory.readByte_of_mem {m : Memory} (hs : m.Pairwise (fun c d => c.1 < d.1)) {k : Nat}
    {b : Byte} (h : (k, b) ∈ m) : Memory.readByte m k = b := by
  induction m with
  | nil => cases h
  | cons c m ih =>
    obtain ⟨j, d⟩ := c
    obtain ⟨hlt, hm⟩ := List.pairwise_cons.mp hs
    rw [Memory.readByte_cons]
    rcases List.mem_cons.mp h with heq | htail
    · cases heq; exact if_pos rfl
    · rw [if_neg (Nat.ne_of_lt (hlt _ htail)), ih hm htail]

/-- A cell that reads nonzero is listed. -/
theorem Memory.mem_of_readByte_ne {m : Memory} {k : Nat}
    (h : Memory.readByte m k ≠ unlistedByte) : (k, Memory.readByte m k) ∈ m := by
  induction m with
  | nil => exact absurd rfl h
  | cons c m ih =>
    obtain ⟨j, d⟩ := c
    rw [Memory.readByte_cons] at h ⊢
    split at h
    · next hj => rw [if_pos hj, hj]; exact List.mem_cons_self
    · next hj => rw [if_neg hj]; exact List.mem_cons_of_mem _ (ih h)

theorem Memory.mem_iff_readByte {m : Memory} (h : Memory.wf m) (k : Nat) (b : Byte) :
    (k, b) ∈ m ↔ b ≠ unlistedByte ∧ Memory.readByte m k = b := by
  obtain ⟨hs, hc⟩ := h
  constructor
  · exact fun hm => ⟨(hc _ hm).1, Memory.readByte_of_mem hs hm⟩
  · rintro ⟨hb, rfl⟩; exact Memory.mem_of_readByte_ne hb

/-- Two canonical memories that read the same at every key are the same list. -/
theorem Memory.eq_of_readByte_eq {m n : Memory} (hm : Memory.wf m) (hn : Memory.wf n)
    (h : ∀ k, Memory.readByte m k = Memory.readByte n k) : m = n := by
  have hne : ∀ {c d : Host.Cell}, c.1 < d.1 → c ≠ d := by
    rintro c _ hlt rfl; exact Nat.lt_irrefl _ hlt
  have hcells : ∀ c : Host.Cell, c ∈ m ↔ c ∈ n := fun ⟨k, b⟩ => by
    rw [Memory.mem_iff_readByte hm, Memory.mem_iff_readByte hn, h]
  have hperm : m.Perm n :=
    (List.perm_ext_iff_of_nodup (hm.1.imp hne) (hn.1.imp hne)).mpr hcells
  exact hperm.eq_of_pairwise (fun _ _ _ _ hlt hgt => absurd hgt (Nat.lt_asymm hlt)) hm.1 hn.1

/-- No canonical memory lists a key past the address space (R44). -/
theorem Memory.readByte_of_keyEnd_le {m : Memory} (h : Memory.wf m) {k : Nat} (hk : keyEnd ≤ k) :
    Memory.readByte m k = unlistedByte := by
  by_contra hne
  have hlt : k < keyEnd := (h.2 _ (Memory.mem_of_readByte_ne hne)).2
  omega

/-- Every key of the address space is one of the two of some word (log entry 2). -/
theorem key_cases {k : Nat} (hk : k < keyEnd) : ∃ a : Word, k = highKey a ∨ k = lowKey a := by
  unfold keyEnd at hk
  refine ⟨BitVec.ofNat 16 (k / 2), ?_⟩
  unfold highKey lowKey
  rw [BitVec.toNat_ofNat]
  omega

theorem Memory.readWord_eq_iff {m n : Memory} {a : Word} :
    Memory.readWord m a = Memory.readWord n a ↔
      Memory.readByte m (highKey a) = Memory.readByte n (highKey a) ∧
        Memory.readByte m (lowKey a) = Memory.readByte n (lowKey a) :=
  wordOfBytes_inj

/-- Canonical memories that read the same word by word read the same cell by cell. -/
theorem Memory.readByte_eq_of_readWord_eq {m n : Memory} (hm : Memory.wf m) (hn : Memory.wf n)
    (h : ∀ a : Word, Memory.readWord m a = Memory.readWord n a) (k : Nat) :
    Memory.readByte m k = Memory.readByte n k := by
  by_cases hk : k < keyEnd
  · obtain ⟨a, rfl | rfl⟩ := key_cases hk
    · exact (Memory.readWord_eq_iff.mp (h a)).1
    · exact (Memory.readWord_eq_iff.mp (h a)).2
  · have hk' := Nat.le_of_not_lt hk
    rw [Memory.readByte_of_keyEnd_le hm hk', Memory.readByte_of_keyEnd_le hn hk']

/-- Settles O51: word reads give byte reads, and these determine the sorted list of nonzero cells. -/
theorem canonicalMemoriesAreEqualWhenTheyReadAlike :
    Obligations.CanonicalMemoriesAreEqualWhenTheyReadAlike := by
  intro m n hm hn h
  exact Memory.eq_of_readByte_eq hm hn (Memory.readByte_eq_of_readWord_eq hm hn h)

end Sys2Proof.Machine
end

section
/-! What committing effects of the shape of `EffectsShape` does to each part of the state: the layer between
the shape of an instruction's effects and the statements about the state of 10_state.md. -/

namespace Sys2Proof.Machine

open Sys2Proof

variable {i : Instr} {s : State} {e : Effects}

/-! ### Registers (R33) -/

theorem commit_reg_of_destination_ne (he : EffectsShape i s e) {q : Reg}
    (hq : destination i ≠ some q) : (commit s e).reg q = s.reg q := by
  have hreg := he.reg
  rw [commit_reg]
  split
  · next r v hw =>
    rw [hw] at hreg
    have hqr : q ≠ r := by rintro rfl; exact hq hreg.symm
    exact if_neg hqr
  · rfl

/-- The destination register is written, with the value the effects record holds for it. -/
theorem commit_reg_destination (he : EffectsShape i s e) {r : Reg} (hr : destination i = some r) :
    e.reg = some (r, (commit s e).reg r) := by
  obtain ⟨⟨q, v⟩, hw, rfl⟩ := Option.map_eq_some_iff.mp (he.reg.trans hr)
  rw [hw, commit_reg, hw]
  simp

/-! ### Memory (R144) -/

theorem commit_readByte_of_not_stored (he : EffectsShape i s e) {k : Nat}
    (hk : ∀ a, storeAddress s i = some a → k ≠ highKey a ∧ k ≠ lowKey a) :
    (commit s e).mem.readByte k = s.mem.readByte k := by
  have hmem := he.mem
  rw [commit_mem]
  split
  · next a v hw =>
    rw [hw] at hmem
    obtain ⟨hhigh, hlow⟩ := hk a hmem.symm
    rw [Memory.readByte_writeWord, if_neg hlow, if_neg hhigh]
  · rfl

theorem commit_mem_wf (h : Memory.wf s.mem) (e : Effects) : Memory.wf (commit s e).mem := by
  rw [commit_mem]
  split
  · exact Memory.writeWord_wf h _ _
  · exact h

/-! ### Flags (R41, R42) -/

theorem commit_nzp_of_not_writesFlags (he : EffectsShape i s e)
    (hw : writesFlags s.cfg i = false) : (commit s e).psr.nzp = s.psr.nzp := by
  have hnone : e.flags = none := by simpa [hw] using he.flags
  rw [commit_nzp, hnone, Option.getD_none]

/-- A flag writer's record holds the flags it leaves. -/
theorem commit_nzp_of_writesFlags (he : EffectsShape i s e) (hw : writesFlags s.cfg i = true) :
    e.flags = some (commit s e).psr.nzp := by
  obtain ⟨f, hf⟩ := Option.isSome_iff_exists.mp (he.flags.trans hw)
  rw [commit_nzp, hf, Option.getD_some]

/-- Flags are left legal, by a flag writer because it writes legal ones, by any other because it keeps
them. -/
theorem commit_nzp_oneHot (he : EffectsShape i s e) (hs : OneHot s.psr.nzp) :
    OneHot (commit s e).psr.nzp := by
  cases hw : writesFlags s.cfg i with
  | true => exact he.legal _ (commit_nzp_of_writesFlags he hw)
  | false => rw [commit_nzp_of_not_writesFlags he hw]; exact hs

theorem commit_nzp_eq_flagsOfWord (he : EffectsShape i s e) (hw : writesFlags s.cfg i = true)
    {r : Reg} (hr : destination i = some r) :
    (commit s e).psr.nzp = flagsOfWord ((commit s e).reg r) := by
  rw [← setNzp_eq]
  exact he.value _ r _ (commit_nzp_of_writesFlags he hw) (commit_reg_destination he hr)

/-! ### The invariant -/

theorem commit_inv (he : EffectsShape i s e) (hs : s.Inv) : (commit s e).Inv := by
  obtain ⟨-, hflags, hmem⟩ := hs
  exact ⟨he.pc, commit_nzp_oneHot he hflags, commit_mem_wf hmem e⟩

end Sys2Proof.Machine
end

section
/-! The statements about the whole state (10_state.md): the frame of a step, its flags, and the invariant. -/

namespace Sys2Proof.Machine

open Sys2Proof

/-- Settles O38: a step that goes on commits effects of the shape of `EffectsShape`, whatever the
instruction, and such a commit keeps the invariant. -/
theorem stepKeepsTheInvariant : Obligations.StepKeepsTheInvariant := by
  intro s t hs h
  obtain ⟨-, e, -, rfl, he⟩ := step_next_shape h
  exact ⟨commit_inv he hs, commit_cfg s e⟩

/-- Settles O45: the effects record names at most the destination register and the stored word. -/
theorem stepsWriteOnlyWhatTheyName : Obligations.StepsWriteOnlyWhatTheyName := by
  intro i s t h
  obtain ⟨e, -, rfl, he⟩ := exec_next_shape h
  exact ⟨fun q => commit_reg_of_destination_ne he, fun k => commit_readByte_of_not_stored he,
    commit_cfg s e⟩

/-- Settles O46: by whether the effects record holds flags, which `writesFlags` decides. -/
theorem onlyFlagWritersChangeTheFlags : Obligations.OnlyFlagWritersChangeTheFlags := by
  intro i s t h
  obtain ⟨e, -, rfl, he⟩ := exec_next_shape h
  refine ⟨fun hw => ⟨?_, fun r hr => ?_⟩, commit_nzp_of_not_writesFlags he⟩
  · exact he.legal _ (commit_nzp_of_writesFlags he hw)
  · exact commit_nzp_eq_flagsOfWord he hw hr

theorem reset_inv : State.reset.Inv := by
  refine ⟨?codeAddress, ?oneHot, reset_mem_wf⟩
  case codeAddress => exact .inr (by decide)
  case oneHot => exact .inl rfl

/-- A host write changes nothing but memory (R296), and keeps its canonical form (log entry 2). -/
theorem hostWrite_inv {s : State} (hs : s.Inv) (a v : Word) : (hostWrite s a v).Inv := by
  obtain ⟨hpc, hflags, hmem⟩ := hs
  exact ⟨hpc, hflags, Memory.writeWord_wf hmem a v⟩

/-- Settles O39: the invariant reads no parameter, so the reset operation's state meets it as
`State.reset` does. -/
theorem resetMeetsTheInvariant : Obligations.ResetMeetsTheInvariant :=
  ⟨reset_inv, fun _ => reset_inv, fun _ a v hs => hostWrite_inv hs a v⟩

end Sys2Proof.Machine
end

section
/-! Memory as the array of words of R60, over the cells it is kept in (log entry 2): the two keys of a word
are its own, so a word write meets the reads of its own word only. -/

namespace Sys2Proof.Machine

open Sys2Proof

/-! ### Keys -/

@[simp] theorem highKey_inj {a b : Word} : highKey a = highKey b ↔ a = b := by
  unfold highKey; bv_omega

@[simp] theorem lowKey_inj {a b : Word} : lowKey a = lowKey b ↔ a = b := by
  unfold lowKey; bv_omega

@[simp] theorem highKey_ne_lowKey (a b : Word) : highKey a ≠ lowKey b := by
  unfold highKey lowKey; omega

@[simp] theorem lowKey_ne_highKey (a b : Word) : lowKey a ≠ highKey b :=
  (highKey_ne_lowKey b a).symm

/-! ### Words -/

theorem Memory.readWord_writeWord (m : Memory) (a b v : Word) :
    (Memory.writeWord m a v).readWord b = if b = a then v else Memory.readWord m b := by
  unfold Memory.readWord
  rw [Memory.readByte_writeWord, Memory.readByte_writeWord]
  by_cases hb : b = a <;> simp [hb]

/-- Settles O50: each of the two cells of a word reads as the word write leaves it. -/
theorem wordReadAfterWordWrite : Obligations.WordReadAfterWordWrite :=
  Memory.readWord_writeWord

end Sys2Proof.Machine
end

section
/-! The address map (R64): the region of an address, whether it is a code address (R65), and the data check
(R67), for each range of addresses. -/

namespace Sys2Proof.Machine

open Sys2Proof

/-- The regions by the bounds of R64. -/
theorem regionOf_eq (a : Word) :
    regionOf a =
      if a.toNat < 0x2000 then .userCode else if a.toNat < 0x8000 then .userData
      else if a.toNat < 0xA000 then .osCode else .osData := rfl

theorem validCode_eq_false {a : Word} (h : ¬ CodeAddress a) : validCode a = false :=
  Bool.eq_false_of_not_eq_true (mt (validCode_iff a).mp h)

section
variable {s : State} {a : Word}

theorem checkData_userCode (h : a.toNat < 0x2000) :
    checkData s a =
      if s.cfg.userCodeDataFault then .error (.invalidMemoryAccess false s.pc) else .ok () := by
  by_cases hc : s.cfg.userCodeDataFault = true
  · rw [if_pos hc, checkData_structural hc h]
  · have hos : ¬ OsAddress a := by omega
    rw [if_neg hc, checkData_ok ⟨fun hp => hos hp.1, fun hu => hc hu.1⟩]

theorem checkData_userData (hlo : 0x2000 ≤ a.toNat) (hhi : a.toNat < 0x8000) :
    checkData s a = .ok () :=
  checkData_ok ⟨fun hp => Nat.not_le_of_lt hhi hp.1, fun hu => Nat.not_lt_of_le hlo hu.2⟩

theorem checkData_os (h : OsAddress a) :
    checkData s a =
      if s.psr.mode = .user then .error (.invalidMemoryAccess true s.pc) else .ok () := by
  by_cases hm : s.psr.mode = .user
  · rw [if_pos hm, checkData_privilege h hm]
  · have hcode : ¬ a.toNat < 0x2000 := by omega
    rw [if_neg hm, checkData_ok ⟨fun hp => hm hp.2, fun hu => hcode hu.2⟩]

end

/-- Settles O48: one range of addresses after the other. -/
theorem addressMapHolds : Obligations.AddressMapHolds := by
  intro s a
  rw [regionOf_eq]
  refine ⟨fun h => ?userCode, fun hlo hhi => ?userData, fun hlo hhi => ?osCode, fun h => ?osData⟩
  case userCode =>
    exact ⟨if_pos h, (validCode_iff a).mpr (.inl h), checkData_userCode h⟩
  case userData =>
    exact ⟨by rw [if_neg (by omega), if_pos hhi], validCode_eq_false (by omega),
      checkData_userData hlo hhi⟩
  case osCode =>
    exact ⟨by rw [if_neg (by omega), if_neg (by omega), if_pos hhi],
      (validCode_iff a).mpr (.inr ⟨hlo, hhi⟩), checkData_os hlo⟩
  case osData =>
    exact ⟨by rw [if_neg (by omega), if_neg (by omega), if_neg (by omega)],
      validCode_eq_false (by omega), checkData_os (by omega)⟩

end Sys2Proof.Machine
end

section
/-! Isolation of the OS data region (R67, R263). The only two places where a step reads memory are the fetch,
at a code address, and LDR, after its data check; in user mode neither reads OS data, so two states that
agree outside OS data compute one effects record. The only memory write is that of STR, after the same check. -/

namespace Sys2Proof.Machine

open Sys2Proof

/-! ### What a step computes -/

/-- The effects record of a step: the fetch, then the record of the fetched instruction. -/
def stepEffects (s : State) : Except Fault Effects :=
  (fetch s).bind fun i => effectsOf i s

theorem step_eq_settle (s : State) : step s = settle s (stepEffects s) := by
  unfold step stepEffects
  cases fetch s with
  | ok i => exact exec_eq_settle i s
  | error f => rfl

/-! ### Where a step reads memory -/

theorem checkData_ok_iff {s : State} {a : Word} : checkData s a = .ok () ↔ DataAllowed s a := by
  refine ⟨fun h => ⟨fun hp => ?_, fun hu => ?_⟩, checkData_ok⟩
  · rw [checkData_privilege hp.1 hp.2] at h; cases h
  · rw [checkData_structural hu.1 hu.2] at h; cases h

/-- A load reads no word but the one its data check allows. -/
theorem ldrEffects_withMemory {rd rs : Reg} {imm : Int} {s : State} {m : Memory}
    (h : DataAllowed s (effectiveAddress (s.reg rs) imm) →
      m.readWord (effectiveAddress (s.reg rs) imm) =
        s.mem.readWord (effectiveAddress (s.reg rs) imm)) :
    ldrEffects rd rs imm { s with mem := m } = ldrEffects rd rs imm s := by
  have hreg : State.reg { s with mem := m } rs = s.reg rs := rfl
  have hcheck : ∀ a, checkData { s with mem := m } a = checkData s a := fun _ => rfl
  unfold ldrEffects
  rw [hreg, hcheck]
  cases hd : checkData s (effectiveAddress (s.reg rs) imm) with
  | error f => rfl
  | ok u =>
    have hw := h (checkData_ok_iff.mp hd)
    exact congrArg (aluEffects s rd) hw

/-- The effects of an instruction depend on memory only through the word of an allowed data access. -/
theorem effectsOf_withMemory {i : Instr} {s : State} {m : Memory}
    (h : ∀ a, dataAddress s i = some a → DataAllowed s a → m.readWord a = s.mem.readWord a) :
    effectsOf i { s with mem := m } = effectsOf i s := by
  cases i
  case ldr rd rs imm => exact ldrEffects_withMemory (h _ rfl)
  all_goals rfl

/-! ### Two states that agree outside OS data -/

section
variable {s t : State}

theorem AgreeOutsideOsData.eq_withMemory (h : AgreeOutsideOsData s t) :
    t = { s with mem := t.mem } := by
  obtain ⟨hpc, hpsr, hregs, hcfg, -⟩ := h
  rw [← hpc, ← hpsr, ← hregs, ← hcfg]

/-- The fetch reads at code addresses only (R141), and none of them is OS data. -/
theorem AgreeOutsideOsData.fetch_eq (h : AgreeOutsideOsData s t) : fetch t = fetch s := by
  unfold fetch
  rw [h.pc]
  split
  · next hv =>
    have hcode : CodeAddress s.pc := (validCode_iff _).mp hv
    rw [h.memory s.pc (by omega)]
  · rfl

/-- In user mode the data check keeps loads below 0x8000 (R67). -/
theorem AgreeOutsideOsData.effectsOf_eq (h : AgreeOutsideOsData s t) (hu : s.psr.mode = .user)
    (i : Instr) : effectsOf i t = effectsOf i s := by
  rw [h.eq_withMemory]
  apply effectsOf_withMemory
  rintro a - ⟨hos, -⟩
  have hlt : ¬ OsAddress a := fun ha => hos ⟨ha, hu⟩
  exact h.memory a (by omega)

theorem AgreeOutsideOsData.stepEffects_eq (h : AgreeOutsideOsData s t)
    (hu : s.psr.mode = .user) : stepEffects t = stepEffects s := by
  unfold stepEffects
  rw [h.fetch_eq]
  exact congrArg (Except.bind (fetch s)) (funext (h.effectsOf_eq hu))

end

/-! ### What a step writes -/

section
variable {s : State} {e : Effects}

theorem commit_mem_of_none (h : e.mem = none) : (commit s e).mem = s.mem := by
  rw [commit_mem, h]

theorem commit_mem_of_some {a v : Word} (h : e.mem = some (a, v)) :
    (commit s e).mem = Memory.writeWord s.mem a v := by
  rw [commit_mem, h]

/-- Committing one record to two states that agree outside OS data keeps them so. -/
theorem AgreeOutsideOsData.commit_commit {t : State} (h : AgreeOutsideOsData s t) (e : Effects) :
    AgreeOutsideOsData (commit s e) (commit t e) := by
  rw [h.eq_withMemory]
  refine ⟨rfl, rfl, rfl, rfl, fun a ha => ?_⟩
  have hword : t.mem.readWord a = s.mem.readWord a := h.memory a ha
  cases hm : e.mem with
  | none => rw [commit_mem_of_none hm, commit_mem_of_none hm]; exact hword
  | some w =>
    rw [commit_mem_of_some hm, commit_mem_of_some hm, Memory.readWord_writeWord,
      Memory.readWord_writeWord, hword]

theorem commit_readWord_of_not_stored {i : Instr} (he : EffectsShape i s e) {b : Word}
    (hb : storeAddress s i ≠ some b) : (commit s e).mem.readWord b = s.mem.readWord b := by
  have hkeys : ∀ a, storeAddress s i = some a → b ≠ a := by
    rintro a ha rfl; exact hb ha
  refine Memory.readWord_eq_iff.mpr ⟨?_, ?_⟩
  · exact commit_readByte_of_not_stored he fun a ha => by simp [hkeys a ha]
  · exact commit_readByte_of_not_stored he fun a ha => by simp [hkeys a ha]

/-- A store is a data access. -/
theorem dataAddress_of_storeAddress {i : Instr} {a : Word} (h : storeAddress s i = some a) :
    dataAddress s i = some a := by
  cases i
  case str rt rs imm => exact h
  all_goals cases h

theorem userStep_readWord_os {t : State} (hu : s.psr.mode = .user) (h : step s = .next t)
    {b : Word} (hb : OsAddress b) : t.mem.readWord b = s.mem.readWord b := by
  obtain ⟨-, e, -, rfl, he⟩ := step_next_shape h
  refine commit_readWord_of_not_stored he fun hstore => ?_
  obtain ⟨hos, -⟩ := he.data b (dataAddress_of_storeAddress hstore)
  exact hos ⟨hb, hu⟩

end

/-- Settles O43: both steps compute one effects record, so they raise one error or commit one record, and a
user-mode record stores below 0x8000. -/
theorem userStepsIgnoreOsData : Obligations.UserStepsIgnoreOsData := by
  intro s t h hu
  have heff : stepEffects t = stepEffects s := h.stepEffects_eq hu
  refine ⟨fun f => ?sameError, fun s2 hs2 => ⟨?agree, fun a ha => ?unwritten⟩⟩
  case sameError =>
    rw [step_eq_settle, step_eq_settle, heff, settle_fault, settle_fault]
  case agree =>
    obtain ⟨e, he, rfl⟩ := settle_next.mp ((step_eq_settle s).symm.trans hs2)
    refine ⟨commit t e, ?_, h.commit_commit e⟩
    rw [step_eq_settle, settle_next]
    exact ⟨e, heff.trans he, rfl⟩
  case unwritten =>
    exact userStep_readWord_os hu hs2 (Nat.le_trans (by decide) ha)

end Sys2Proof.Machine
end

section
/-! The encoding formats of 30_encoding.md (R94 to R103): a word is the concatenation of its format's fields
exactly when each field reads so. One direction reads the fields of an encoded word, the other puts a word
together from the fields the decoder read. -/

namespace Sys2Proof

/-! ### Fields of a concatenation -/

/-- Concatenations of fields of the same widths are equal field by field. -/
theorem append_eq_append_iff {m n : Nat} {x x' : BitVec m} {y y' : BitVec n} :
    x ++ y = x' ++ y' ↔ x = x' ∧ y = y' := by
  constructor
  · intro h
    have hx := congrArg (BitVec.extractLsb' n m) h
    have hy := congrArg (BitVec.extractLsb' 0 n) h
    rw [BitVec.extractLsb'_append_eq_left, BitVec.extractLsb'_append_eq_left] at hx
    rw [BitVec.extractLsb'_append_eq_right, BitVec.extractLsb'_append_eq_right] at hy
    exact ⟨hx, hy⟩
  · rintro ⟨rfl, rfl⟩; rfl

theorem extract_eq_append_iff {k m n s : Nat} {w : BitVec k} {x : BitVec m} {y : BitVec n} :
    w.extractLsb' s (m + n) = x ++ y ↔ w.extractLsb' (s + n) m = x ∧ w.extractLsb' s n = y := by
  rw [← append_eq_append_iff, BitVec.extractLsb'_append_extractLsb'_eq_extractLsb' rfl]

theorem eq_append_iff (m n : Nat) {w : BitVec (m + n)} {x : BitVec m} {y : BitVec n} :
    w = x ++ y ↔ w.extractLsb' n m = x ∧ w.extractLsb' 0 n = y := by
  conv_lhs => rw [← BitVec.extractLsb'_eq_self (x := w)]
  rw [extract_eq_append_iff, Nat.zero_add]

/-! ### The formats -/

section
variable {w : Word} {o : BitVec 4}

/-- F-BR and F-CONST (R94, R100). -/
theorem eq_branch_iff {c : BitVec 3} {x : BitVec 9} :
    w = o ++ c ++ x ↔
      (w.extractLsb' 12 4 = o ∧ w.extractLsb' 9 3 = c) ∧ w.extractLsb' 0 9 = x := by
  rw [eq_append_iff (4 + 3) 9, extract_eq_append_iff]

/-- F-RRR (R95); bits 5:3 hold the format selector and the operation. -/
theorem eq_registers_iff {d a f b : BitVec 3} :
    w = o ++ d ++ a ++ f ++ b ↔
      (((w.extractLsb' 12 4 = o ∧ w.extractLsb' 9 3 = d) ∧ w.extractLsb' 6 3 = a) ∧
        w.extractLsb' 3 3 = f) ∧ w.extractLsb' 0 3 = b := by
  rw [eq_append_iff (4 + 3 + 3 + 3) 3]
  simp only [extract_eq_append_iff]

/-- F-RRI5 (R95). -/
theorem eq_immediate_iff {d a : BitVec 3} {f : BitVec 1} {x : BitVec 5} :
    w = o ++ d ++ a ++ f ++ x ↔
      (((w.extractLsb' 12 4 = o ∧ w.extractLsb' 9 3 = d) ∧ w.extractLsb' 6 3 = a) ∧
        w.extractLsb' 5 1 = f) ∧ w.extractLsb' 0 5 = x := by
  rw [eq_append_iff (4 + 3 + 3 + 1) 5]
  simp only [extract_eq_append_iff]

/-- F-CMP with a register operand (R96). -/
theorem eq_compare_iff {a b : BitVec 3} {f : BitVec 2} {y : BitVec 4} :
    w = o ++ a ++ f ++ y ++ b ↔
      (((w.extractLsb' 12 4 = o ∧ w.extractLsb' 9 3 = a) ∧ w.extractLsb' 7 2 = f) ∧
        w.extractLsb' 3 4 = y) ∧ w.extractLsb' 0 3 = b := by
  rw [eq_append_iff (4 + 3 + 2 + 4) 3]
  simp only [extract_eq_append_iff]

/-- F-CMP with an immediate (R96). -/
theorem eq_compareImmediate_iff {a : BitVec 3} {f : BitVec 2} {x : BitVec 7} :
    w = o ++ a ++ f ++ x ↔
      ((w.extractLsb' 12 4 = o ∧ w.extractLsb' 9 3 = a) ∧ w.extractLsb' 7 2 = f) ∧
        w.extractLsb' 0 7 = x := by
  rw [eq_append_iff (4 + 3 + 2) 7]
  simp only [extract_eq_append_iff]

/-- F-JSR and F-JMP with a register operand (R97). -/
theorem eq_callRegister_iff {f : BitVec 1} {y : BitVec 2} {a : BitVec 3} {z : BitVec 6} :
    w = o ++ f ++ y ++ a ++ z ↔
      (((w.extractLsb' 12 4 = o ∧ w.extractLsb' 11 1 = f) ∧ w.extractLsb' 9 2 = y) ∧
        w.extractLsb' 6 3 = a) ∧ w.extractLsb' 0 6 = z := by
  rw [eq_append_iff (4 + 1 + 2 + 3) 6]
  simp only [extract_eq_append_iff]

/-- F-JSR and F-JMP with an immediate (R97). -/
theorem eq_call_iff {f : BitVec 1} {x : BitVec 11} :
    w = o ++ f ++ x ↔
      (w.extractLsb' 12 4 = o ∧ w.extractLsb' 11 1 = f) ∧ w.extractLsb' 0 11 = x := by
  rw [eq_append_iff (4 + 1) 11, extract_eq_append_iff]

/-- F-LS (R98). -/
theorem eq_memory_iff {d a : BitVec 3} {x : BitVec 6} :
    w = o ++ d ++ a ++ x ↔
      ((w.extractLsb' 12 4 = o ∧ w.extractLsb' 9 3 = d) ∧ w.extractLsb' 6 3 = a) ∧
        w.extractLsb' 0 6 = x := by
  rw [eq_append_iff (4 + 3 + 3) 6]
  simp only [extract_eq_append_iff]

/-- F-SHIFT with an amount (R101). -/
theorem eq_shift_iff {d a : BitVec 3} {f : BitVec 2} {x : BitVec 4} :
    w = o ++ d ++ a ++ f ++ x ↔
      (((w.extractLsb' 12 4 = o ∧ w.extractLsb' 9 3 = d) ∧ w.extractLsb' 6 3 = a) ∧
        w.extractLsb' 4 2 = f) ∧ w.extractLsb' 0 4 = x := by
  rw [eq_append_iff (4 + 3 + 3 + 2) 4]
  simp only [extract_eq_append_iff]

/-- F-SHIFT of MOD (R101). -/
theorem eq_modulo_iff {d a b : BitVec 3} {f : BitVec 2} {y : BitVec 1} :
    w = o ++ d ++ a ++ f ++ y ++ b ↔
      ((((w.extractLsb' 12 4 = o ∧ w.extractLsb' 9 3 = d) ∧ w.extractLsb' 6 3 = a) ∧
        w.extractLsb' 4 2 = f) ∧ w.extractLsb' 3 1 = y) ∧ w.extractLsb' 0 3 = b := by
  rw [eq_append_iff (4 + 3 + 3 + 2 + 1) 3]
  simp only [extract_eq_append_iff]

/-- F-HICONST (R102). -/
theorem eq_hiconst_iff {d : BitVec 3} {y : BitVec 1} {x : BitVec 8} :
    w = o ++ d ++ y ++ x ↔
      ((w.extractLsb' 12 4 = o ∧ w.extractLsb' 9 3 = d) ∧ w.extractLsb' 8 1 = y) ∧
        w.extractLsb' 0 8 = x := by
  rw [eq_append_iff (4 + 3 + 1) 8]
  simp only [extract_eq_append_iff]

/-- F-TRAP (R103). -/
theorem eq_trap_iff {y : BitVec 4} {x : BitVec 8} :
    w = o ++ y ++ x ↔
      (w.extractLsb' 12 4 = o ∧ w.extractLsb' 8 4 = y) ∧ w.extractLsb' 0 8 = x := by
  rw [eq_append_iff (4 + 4) 8, extract_eq_append_iff]

/-- F-RTI and the reserved classes (R99, R106). -/
theorem eq_opcode_iff {x : BitVec 12} :
    w = o ++ x ↔ w.extractLsb' 12 4 = o ∧ w.extractLsb' 0 12 = x :=
  eq_append_iff 4 12

end

end Sys2Proof
end

section
/-! Decoding a canonical word gives its instruction back (R108). -/

namespace Sys2Proof

/-! ### The fields as the decoder reads them -/

theorem fieldA_eq {w : Word} {r : Reg} (h : w.extractLsb' 9 3 = r.bits) : fieldA w = r := by
  rw [fieldA, h, Machine.Reg.ofBits_bits]

theorem fieldB_eq {w : Word} {r : Reg} (h : w.extractLsb' 6 3 = r.bits) : fieldB w = r := by
  rw [fieldB, h, Machine.Reg.ofBits_bits]

theorem fieldC_eq {w : Word} {r : Reg} (h : w.extractLsb' 0 3 = r.bits) : fieldC w = r := by
  rw [fieldC, h, Machine.Reg.ofBits_bits]

theorem signedField_eq {n : Nat} {w : Word} {i : Int} (h : w.extractLsb' 0 n = BitVec.ofInt n i)
    (hn : 0 < n) (hi : fitsSigned n i = true) : signedField n w = i := by
  rw [signedField, h, toInt_ofInt_of_fitsSigned hn hi]

theorem unsignedField_eq {n : Nat} {w : Word} {u : Nat} (h : w.extractLsb' 0 n = BitVec.ofNat n u)
    (hu : fitsUnsigned n u = true) : unsignedField n w = u := by
  rw [unsignedField, h, toNat_ofNat_of_fitsUnsigned hu]

/-- Bits 5:3 hold the format selector of R95, bit 5, above the operation, bits 4:3. -/
theorem getLsbD_five (w : Word) : w.getLsbD 5 = (w.extractLsb' 3 3).getLsbD 2 := by
  simp

theorem extract_operation (w : Word) : w.extractLsb' 3 2 = (w.extractLsb' 3 3).extractLsb' 0 2 := by
  ext k hk
  simp [show k < 3 by omega]

/-! ### decode of a canonical word -/

/-- The fields of a canonical word select the instruction's own arm of the decoder and hold its operands. -/
theorem decode_of_eq_encode {i : Instr} {w : Word} (hi : i.wf = true) (h : w = encode i) :
    decode w = i := by
  cases i
  case nop | brp | brz | brzp | brn | brnp | brnz | brnzp =>
    obtain ⟨⟨ho, hc⟩, hx⟩ := eq_branch_iff.mp h
    simp only [decode, decodeBranch, ho, hc, signedField_eq hx (by decide) hi]
    rfl
  case add | mul | sub | div | and | or | xor =>
    obtain ⟨⟨⟨⟨ho, hd⟩, ha⟩, hf⟩, hb⟩ := eq_registers_iff.mp h
    simp only [decode, decodeArith, decodeLogic, ho, getLsbD_five, extract_operation, hf,
      fieldA_eq hd, fieldB_eq ha, fieldC_eq hb]
    rfl
  case not =>
    obtain ⟨⟨⟨⟨ho, hd⟩, ha⟩, hf⟩, -⟩ := eq_registers_iff.mp h
    simp only [decode, decodeLogic, ho, getLsbD_five, extract_operation, hf,
      fieldA_eq hd, fieldB_eq ha]
    rfl
  case addi | andi =>
    obtain ⟨⟨⟨⟨ho, hd⟩, ha⟩, hf⟩, hx⟩ := eq_immediate_iff.mp h
    simp only [decode, decodeArith, decodeLogic, ho, BitVec.getLsbD_eq_extractLsb', hf,
      fieldA_eq hd, fieldB_eq ha, signedField_eq hx (by decide) hi]
    rfl
  case cmp | cmpu =>
    obtain ⟨⟨⟨⟨ho, ha⟩, hf⟩, -⟩, hb⟩ := eq_compare_iff.mp h
    simp only [decode, decodeCompare, ho, hf, fieldA_eq ha, fieldC_eq hb]
    rfl
  case cmpi =>
    obtain ⟨⟨⟨ho, ha⟩, hf⟩, hx⟩ := eq_compareImmediate_iff.mp h
    simp only [decode, decodeCompare, ho, hf, fieldA_eq ha, signedField_eq hx (by decide) hi]
    rfl
  case cmpiu =>
    obtain ⟨⟨⟨ho, ha⟩, hf⟩, hx⟩ := eq_compareImmediate_iff.mp h
    simp only [decode, decodeCompare, ho, hf, fieldA_eq ha, unsignedField_eq hx hi]
    rfl
  case jsrr | jmpr =>
    obtain ⟨⟨⟨⟨ho, hf⟩, -⟩, ha⟩, -⟩ := eq_callRegister_iff.mp h
    simp only [decode, decodeCall, decodeJump, ho, BitVec.getLsbD_eq_extractLsb', hf, fieldB_eq ha]
    rfl
  case jsr =>
    obtain ⟨⟨ho, hf⟩, hx⟩ := eq_call_iff.mp h
    simp only [decode, decodeCall, ho, BitVec.getLsbD_eq_extractLsb', hf, hx]
    rfl
  case jmp =>
    obtain ⟨⟨ho, hf⟩, hx⟩ := eq_call_iff.mp h
    simp only [decode, decodeJump, ho, BitVec.getLsbD_eq_extractLsb', hf,
      signedField_eq hx (by decide) hi]
    rfl
  case ldr | str =>
    obtain ⟨⟨⟨ho, hd⟩, ha⟩, hx⟩ := eq_memory_iff.mp h
    simp only [decode, ho, fieldA_eq hd, fieldB_eq ha, signedField_eq hx (by decide) hi]
    rfl
  case const =>
    obtain ⟨⟨ho, hd⟩, hx⟩ := eq_branch_iff.mp h
    simp only [decode, ho, fieldA_eq hd, signedField_eq hx (by decide) hi]
    rfl
  case sll | sra | srl =>
    obtain ⟨⟨⟨⟨ho, hd⟩, ha⟩, hf⟩, hx⟩ := eq_shift_iff.mp h
    simp only [decode, decodeShift, ho, hf, fieldA_eq hd, fieldB_eq ha, unsignedField_eq hx hi]
    rfl
  case mod =>
    obtain ⟨⟨⟨⟨⟨ho, hd⟩, ha⟩, hf⟩, -⟩, hb⟩ := eq_modulo_iff.mp h
    simp only [decode, decodeShift, ho, hf, fieldA_eq hd, fieldB_eq ha, fieldC_eq hb]
    rfl
  case hiconst =>
    obtain ⟨⟨⟨ho, hd⟩, -⟩, hx⟩ := eq_hiconst_iff.mp h
    simp only [decode, ho, fieldA_eq hd, unsignedField_eq hx hi]
    rfl
  case trap =>
    obtain ⟨⟨ho, -⟩, hx⟩ := eq_trap_iff.mp h
    simp only [decode, ho, unsignedField_eq hx hi]
    rfl
  case rti =>
    obtain ⟨ho, -⟩ := eq_opcode_iff.mp h
    simp only [decode, ho]
    rfl
  case reserved3 | reservedB | reservedE =>
    obtain ⟨ho, hx⟩ := eq_opcode_iff.mp h
    simp only [decode, ho, hx]
    rfl

theorem decode_encode {i : Instr} (hi : i.wf = true) : decode (encode i) = i :=
  decode_of_eq_encode hi rfl

/-! ### Immediates after extension (R93, R108) -/

theorem extend_signed {n : Nat} (hn : 0 < n) (hle : n ≤ 16) {v : Int}
    (h : fitsSigned n v = true) : ((BitVec.ofInt n v).signExtend 16).toInt = v := by
  rw [BitVec.toInt_signExtend_of_le hle, toInt_ofInt_of_fitsSigned hn h]

theorem extend_unsigned {n u : Nat} (hle : n ≤ 16) (h : fitsUnsigned n u = true) :
    ((BitVec.ofNat n u).setWidth 16).toNat = u := by
  rw [BitVec.toNat_setWidth_of_le hle, toNat_ofNat_of_fitsUnsigned h]

/-- Settles O34: each operand field of the canonical word holds its operand, and each of the widths fits in
a word. -/
theorem decodeInvertsEncode : Obligations.DecodeInvertsEncode := by
  refine ⟨fun _ => decode_encode, fun n hn => ?_⟩
  have hwidth : 0 < n ∧ n ≤ 16 := by revert n; decide
  exact ⟨fun _ => extend_signed hwidth.1 hwidth.2, fun _ => extend_unsigned hwidth.2⟩

/-- Settles O33: each sample is the canonical word of its instruction. -/
theorem sampleWordsDecode : Obligations.SampleWordsDecode := by
  unfold Obligations.SampleWordsDecode
  and_intros
  all_goals exact decode_of_eq_encode rfl rfl

end Sys2Proof
end

section
/-! Encoding what a word decodes to gives the word back, with its ignored bits made canonical (R105, R107):
one lemma for each opcode class of R92. -/

namespace Sys2Proof

/-! ### The canonical form of a word -/

/-- `encode i` is `w` with the bits that the format of `i` ignores made canonical (R107). -/
def CanonicalOf (i : Instr) (w : Word) : Prop :=
  encode i = (w &&& ~~~i.ignoredBits) ||| i.canonicalBits

/-- With the ignored bits `g` and their canonical values `c` written out. -/
theorem canonicalOf_of_masks (g c : Word) {i : Instr} {w : Word} (hi : i.ignoredBits = g)
    (hc : i.canonicalBits = c) (h : encode i = (w &&& ~~~g) ||| c) : CanonicalOf i w := by
  rw [CanonicalOf, hi, hc, h]

/-- Where the format ignores no bit, the canonical word is the word itself. -/
theorem canonicalOf_iff {i : Instr} {w : Word} (hi : i.ignoredBits = 0#16)
    (hc : i.canonicalBits = 0#16) : CanonicalOf i w ↔ encode i = w := by
  rw [CanonicalOf, hi, hc, BitVec.not_zero, BitVec.and_allOnes, BitVec.or_zero]

theorem canonicalOf_of_encode_eq {i : Instr} {w : Word} (hi : i.ignoredBits = 0#16)
    (hc : i.canonicalBits = 0#16) (h : encode i = w) : CanonicalOf i w :=
  (canonicalOf_iff hi hc).mpr h

section
variable (w : Word)

theorem extract_fieldA : w.extractLsb' 9 3 = (fieldA w).bits := by rw [fieldA, Reg.bits_ofBits]
theorem extract_fieldB : w.extractLsb' 6 3 = (fieldB w).bits := by rw [fieldB, Reg.bits_ofBits]
theorem extract_fieldC : w.extractLsb' 0 3 = (fieldC w).bits := by rw [fieldC, Reg.bits_ofBits]

theorem extract_signedField (n : Nat) :
    w.extractLsb' 0 n = BitVec.ofInt n (signedField n w) := by
  rw [signedField, BitVec.ofInt_toInt]

theorem extract_unsignedField (n : Nat) :
    w.extractLsb' 0 n = BitVec.ofNat n (unsignedField n w) := by
  rw [unsignedField, BitVec.ofNat_toNat, BitVec.setWidth_eq]

end

/-! ### The values of a selecting field -/

theorem cases_two (x : BitVec 2) : x = 0#2 ∨ x = 1#2 ∨ x = 2#2 ∨ x = 3#2 := by
  revert x; decide

theorem cases_three (x : BitVec 3) :
    x = 0#3 ∨ x = 1#3 ∨ x = 2#3 ∨ x = 3#3 ∨ x = 4#3 ∨ x = 5#3 ∨ x = 6#3 ∨ x = 7#3 := by
  revert x; decide

theorem cases_four (x : BitVec 4) :
    x = 0x0#4 ∨ x = 0x1#4 ∨ x = 0x2#4 ∨ x = 0x3#4 ∨ x = 0x4#4 ∨ x = 0x5#4 ∨ x = 0x6#4 ∨
      x = 0x7#4 ∨ x = 0x8#4 ∨ x = 0x9#4 ∨ x = 0xA#4 ∨ x = 0xB#4 ∨ x = 0xC#4 ∨ x = 0xD#4 ∨
      x = 0xE#4 ∨ x = 0xF#4 := by
  revert x; decide

/-! ### The bits a mask keeps and clears -/

section
variable {w m c : Word} {s l : Nat}

theorem extract_kept (hm : m.extractLsb' s l = BitVec.allOnes l) (hc : c.extractLsb' s l = 0#l) :
    ((w &&& m) ||| c).extractLsb' s l = w.extractLsb' s l := by
  rw [BitVec.extractLsb'_or, BitVec.extractLsb'_and, hm, hc, BitVec.and_allOnes, BitVec.or_zero]

theorem extract_cleared (hm : m.extractLsb' s l = 0#l) :
    ((w &&& m) ||| c).extractLsb' s l = c.extractLsb' s l := by
  rw [BitVec.extractLsb'_or, BitVec.extractLsb'_and, hm, BitVec.and_zero, BitVec.zero_or]

end

/-! ### Fields of two formats -/

section
variable {w : Word} {o : BitVec 4}

/-- The operation of F-RRR, from its format selector and its two operation bits (R95). -/
theorem extract_registerOperation {g : BitVec 2} (hs : w.extractLsb' 5 1 = 0#1)
    (hg : w.extractLsb' 3 2 = g) : w.extractLsb' 3 3 = 0#1 ++ g :=
  (extract_eq_append_iff (m := 1) (n := 2)).mpr ⟨hs, hg⟩

/-- A call or jump through a register: the word with its ignored bits cleared (R97). -/
theorem callRegister_word (ho : w.extractLsb' 12 4 = o)
    (hs : w.extractLsb' 11 1 = 0#1) :
    o ++ 0#1 ++ 0#2 ++ (fieldB w).bits ++ 0#6 = (w &&& ~~~0x063F#16) ||| 0x0000#16 := by
  refine (eq_callRegister_iff.mpr ⟨⟨⟨⟨?_, ?_⟩, ?_⟩, ?_⟩, ?_⟩).symm
  · exact (extract_kept (by decide) (by decide)).trans ho
  · exact (extract_kept (by decide) (by decide)).trans hs
  · exact extract_cleared (by decide)
  · exact (extract_kept (by decide) (by decide)).trans (extract_fieldB w)
  · exact extract_cleared (by decide)

end

/-! ### The opcode classes -/

section
variable {w : Word}

theorem decodeBranch_canonicalOf (ho : w.extractLsb' 12 4 = 0x0#4) :
    CanonicalOf (decodeBranch w) w := by
  rcases cases_three (w.extractLsb' 9 3) with hc | hc | hc | hc | hc | hc | hc | hc
  all_goals
    rw [decodeBranch, hc]
    exact canonicalOf_of_encode_eq rfl rfl
      (eq_branch_iff.mpr ⟨⟨ho, hc⟩, extract_signedField w 9⟩).symm

theorem decodeArith_canonicalOf (ho : w.extractLsb' 12 4 = 0x1#4) :
    CanonicalOf (decodeArith w) w := by
  rw [decodeArith, BitVec.getLsbD_eq_extractLsb']
  rcases BitVec.eq_zero_or_eq_one (w.extractLsb' 5 1) with hs | hs
  · rcases cases_two (w.extractLsb' 3 2) with hg | hg | hg | hg
    all_goals
      rw [hs, hg]
      exact canonicalOf_of_encode_eq rfl rfl (eq_registers_iff.mpr ⟨⟨⟨⟨ho, extract_fieldA w⟩,
        extract_fieldB w⟩, extract_registerOperation hs hg⟩, extract_fieldC w⟩).symm
  · rw [hs]
    exact canonicalOf_of_encode_eq rfl rfl (eq_immediate_iff.mpr
      ⟨⟨⟨⟨ho, extract_fieldA w⟩, extract_fieldB w⟩, hs⟩, extract_signedField w 5⟩).symm

theorem decodeCompare_canonicalOf (ho : w.extractLsb' 12 4 = 0x2#4) :
    CanonicalOf (decodeCompare w) w := by
  rw [decodeCompare]
  rcases cases_two (w.extractLsb' 7 2) with hf | hf | hf | hf
  case inl | inr.inl =>
    rw [hf]
    refine canonicalOf_of_masks 0x0078 0x0000 rfl rfl
      (eq_compare_iff.mpr ⟨⟨⟨⟨?_, ?_⟩, ?_⟩, ?_⟩, ?_⟩).symm
    · exact (extract_kept (by decide) (by decide)).trans ho
    · exact (extract_kept (by decide) (by decide)).trans (extract_fieldA w)
    · exact (extract_kept (by decide) (by decide)).trans hf
    · exact extract_cleared (by decide)
    · exact (extract_kept (by decide) (by decide)).trans (extract_fieldC w)
  case inr.inr.inl =>
    rw [hf]
    exact canonicalOf_of_encode_eq rfl rfl (eq_compareImmediate_iff.mpr
      ⟨⟨⟨ho, extract_fieldA w⟩, hf⟩, extract_signedField w 7⟩).symm
  case inr.inr.inr =>
    rw [hf]
    exact canonicalOf_of_encode_eq rfl rfl (eq_compareImmediate_iff.mpr
      ⟨⟨⟨ho, extract_fieldA w⟩, hf⟩, extract_unsignedField w 7⟩).symm

theorem decodeCall_canonicalOf (ho : w.extractLsb' 12 4 = 0x4#4) :
    CanonicalOf (decodeCall w) w := by
  rw [decodeCall, BitVec.getLsbD_eq_extractLsb']
  rcases BitVec.eq_zero_or_eq_one (w.extractLsb' 11 1) with hs | hs
  · rw [hs]
    exact canonicalOf_of_masks 0x063F 0x0000 rfl rfl (callRegister_word ho hs)
  · rw [hs]
    exact canonicalOf_of_encode_eq rfl rfl (eq_call_iff.mpr ⟨⟨ho, hs⟩, rfl⟩).symm

theorem decodeLogic_canonicalOf (ho : w.extractLsb' 12 4 = 0x5#4) :
    CanonicalOf (decodeLogic w) w := by
  rw [decodeLogic, BitVec.getLsbD_eq_extractLsb']
  rcases BitVec.eq_zero_or_eq_one (w.extractLsb' 5 1) with hs | hs
  · rcases cases_two (w.extractLsb' 3 2) with hg | hg | hg | hg
    case inr.inl =>
      rw [hs, hg]
      refine canonicalOf_of_masks 0x0007 0x0000 rfl rfl
        (eq_registers_iff.mpr ⟨⟨⟨⟨?_, ?_⟩, ?_⟩, ?_⟩, ?_⟩).symm
      · exact (extract_kept (by decide) (by decide)).trans ho
      · exact (extract_kept (by decide) (by decide)).trans (extract_fieldA w)
      · exact (extract_kept (by decide) (by decide)).trans (extract_fieldB w)
      · exact (extract_kept (by decide) (by decide)).trans (extract_registerOperation hs hg)
      · exact extract_cleared (by decide)
    all_goals
      rw [hs, hg]
      exact canonicalOf_of_encode_eq rfl rfl (eq_registers_iff.mpr ⟨⟨⟨⟨ho, extract_fieldA w⟩,
        extract_fieldB w⟩, extract_registerOperation hs hg⟩, extract_fieldC w⟩).symm
  · rw [hs]
    exact canonicalOf_of_encode_eq rfl rfl (eq_immediate_iff.mpr
      ⟨⟨⟨⟨ho, extract_fieldA w⟩, extract_fieldB w⟩, hs⟩, extract_signedField w 5⟩).symm

theorem ldr_canonicalOf (ho : w.extractLsb' 12 4 = 0x6#4) :
    CanonicalOf (.ldr (fieldA w) (fieldB w) (signedField 6 w)) w :=
  canonicalOf_of_encode_eq rfl rfl (eq_memory_iff.mpr
    ⟨⟨⟨ho, extract_fieldA w⟩, extract_fieldB w⟩, extract_signedField w 6⟩).symm

theorem str_canonicalOf (ho : w.extractLsb' 12 4 = 0x7#4) :
    CanonicalOf (.str (fieldA w) (fieldB w) (signedField 6 w)) w :=
  canonicalOf_of_encode_eq rfl rfl (eq_memory_iff.mpr
    ⟨⟨⟨ho, extract_fieldA w⟩, extract_fieldB w⟩, extract_signedField w 6⟩).symm

theorem rti_canonicalOf (ho : w.extractLsb' 12 4 = 0x8#4) : CanonicalOf .rti w := by
  refine canonicalOf_of_masks 0x0FFF 0x0000 rfl rfl (eq_opcode_iff.mpr ⟨?_, ?_⟩).symm
  · exact (extract_kept (by decide) (by decide)).trans ho
  · exact extract_cleared (by decide)

theorem const_canonicalOf (ho : w.extractLsb' 12 4 = 0x9#4) :
    CanonicalOf (.const (fieldA w) (signedField 9 w)) w :=
  canonicalOf_of_encode_eq rfl rfl
    (eq_branch_iff.mpr ⟨⟨ho, extract_fieldA w⟩, extract_signedField w 9⟩).symm

theorem decodeShift_canonicalOf (ho : w.extractLsb' 12 4 = 0xA#4) :
    CanonicalOf (decodeShift w) w := by
  rw [decodeShift]
  rcases cases_two (w.extractLsb' 4 2) with hf | hf | hf | hf
  case inr.inr.inr =>
    rw [hf]
    refine canonicalOf_of_masks 0x0008 0x0000 rfl rfl
      (eq_modulo_iff.mpr ⟨⟨⟨⟨⟨?_, ?_⟩, ?_⟩, ?_⟩, ?_⟩, ?_⟩).symm
    · exact (extract_kept (by decide) (by decide)).trans ho
    · exact (extract_kept (by decide) (by decide)).trans (extract_fieldA w)
    · exact (extract_kept (by decide) (by decide)).trans (extract_fieldB w)
    · exact (extract_kept (by decide) (by decide)).trans hf
    · exact extract_cleared (by decide)
    · exact (extract_kept (by decide) (by decide)).trans (extract_fieldC w)
  all_goals
    rw [hf]
    exact canonicalOf_of_encode_eq rfl rfl (eq_shift_iff.mpr
      ⟨⟨⟨⟨ho, extract_fieldA w⟩, extract_fieldB w⟩, hf⟩, extract_unsignedField w 4⟩).symm

theorem decodeJump_canonicalOf (ho : w.extractLsb' 12 4 = 0xC#4) :
    CanonicalOf (decodeJump w) w := by
  rw [decodeJump, BitVec.getLsbD_eq_extractLsb']
  rcases BitVec.eq_zero_or_eq_one (w.extractLsb' 11 1) with hs | hs
  · rw [hs]
    exact canonicalOf_of_masks 0x063F 0x0000 rfl rfl (callRegister_word ho hs)
  · rw [hs]
    exact canonicalOf_of_encode_eq rfl rfl
      (eq_call_iff.mpr ⟨⟨ho, hs⟩, extract_signedField w 11⟩).symm

theorem hiconst_canonicalOf (ho : w.extractLsb' 12 4 = 0xD#4) :
    CanonicalOf (.hiconst (fieldA w) (unsignedField 8 w)) w := by
  refine canonicalOf_of_masks 0x0100 0x0100 rfl rfl
    (eq_hiconst_iff.mpr ⟨⟨⟨?_, ?_⟩, ?_⟩, ?_⟩).symm
  · exact (extract_kept (by decide) (by decide)).trans ho
  · exact (extract_kept (by decide) (by decide)).trans (extract_fieldA w)
  · exact extract_cleared (by decide)
  · exact (extract_kept (by decide) (by decide)).trans (extract_unsignedField w 8)

theorem trap_canonicalOf (ho : w.extractLsb' 12 4 = 0xF#4) :
    CanonicalOf (.trap (unsignedField 8 w)) w := by
  refine canonicalOf_of_masks 0x0F00 0x0000 rfl rfl (eq_trap_iff.mpr ⟨⟨?_, ?_⟩, ?_⟩).symm
  · exact (extract_kept (by decide) (by decide)).trans ho
  · exact extract_cleared (by decide)
  · exact (extract_kept (by decide) (by decide)).trans (extract_unsignedField w 8)

end

/-- By the opcode class in bits 15:12 (R92). -/
theorem decode_canonicalOf (w : Word) : CanonicalOf (decode w) w := by
  rw [decode]
  rcases cases_four (w.extractLsb' 12 4) with ho | ho | ho | ho | ho | ho | ho | ho | ho | ho | ho |
    ho | ho | ho | ho | ho
  all_goals rw [ho]
  · exact decodeBranch_canonicalOf ho
  · exact decodeArith_canonicalOf ho
  · exact decodeCompare_canonicalOf ho
  · exact canonicalOf_of_encode_eq rfl rfl (eq_opcode_iff.mpr ⟨ho, rfl⟩).symm
  · exact decodeCall_canonicalOf ho
  · exact decodeLogic_canonicalOf ho
  · exact ldr_canonicalOf ho
  · exact str_canonicalOf ho
  · exact rti_canonicalOf ho
  · exact const_canonicalOf ho
  · exact decodeShift_canonicalOf ho
  · exact canonicalOf_of_encode_eq rfl rfl (eq_opcode_iff.mpr ⟨ho, rfl⟩).symm
  · exact decodeJump_canonicalOf ho
  · exact hiconst_canonicalOf ho
  · exact canonicalOf_of_encode_eq rfl rfl (eq_opcode_iff.mpr ⟨ho, rfl⟩).symm
  · exact trap_canonicalOf ho

/-- Settles O35: each opcode class puts its word together from the fields it read. -/
theorem encodeOfDecodeIsCanonical : Obligations.EncodeOfDecodeIsCanonical := decode_canonicalOf

end Sys2Proof
end

section
/-! The rows of spec/opcode_table.json: no word is of two rows, so a word's row decides its ignored bits, and
a word decodes to the one instruction whose canonical form it has. -/

namespace Sys2Proof

/-! ### Immediates of decoded instructions (R93) -/

section
variable (w : Word)

theorem fitsSigned_signedField (n : Nat) : fitsSigned n (signedField n w) = true :=
  fitsSigned_toInt _

theorem fitsUnsigned_unsignedField (n : Nat) : fitsUnsigned n (unsignedField n w) = true :=
  fitsUnsigned_toNat _

theorem decodeBranch_wf : (decodeBranch w).wf = true := by
  unfold decodeBranch
  split <;> exact fitsSigned_signedField w 9

theorem decodeArith_wf : (decodeArith w).wf = true := by
  unfold decodeArith
  split
  · exact fitsSigned_signedField w 5
  · split <;> rfl

theorem decodeCompare_wf : (decodeCompare w).wf = true := by
  unfold decodeCompare
  split
  · rfl
  · rfl
  · exact fitsSigned_signedField w 7
  · exact fitsUnsigned_unsignedField w 7

theorem decodeCall_wf : (decodeCall w).wf = true := by
  unfold decodeCall
  split <;> rfl

theorem decodeLogic_wf : (decodeLogic w).wf = true := by
  unfold decodeLogic
  split
  · exact fitsSigned_signedField w 5
  · split <;> rfl

theorem decodeShift_wf : (decodeShift w).wf = true := by
  unfold decodeShift
  split
  case h_4 => rfl
  all_goals exact fitsUnsigned_unsignedField w 4

theorem decodeJump_wf : (decodeJump w).wf = true := by
  unfold decodeJump
  split
  · exact fitsSigned_signedField w 11
  · rfl

theorem decode_wf : (decode w).wf = true := by
  unfold decode
  split
  · exact decodeBranch_wf w
  · exact decodeArith_wf w
  · exact decodeCompare_wf w
  · rfl
  · exact decodeCall_wf w
  · exact decodeLogic_wf w
  · exact fitsSigned_signedField w 6
  · exact fitsSigned_signedField w 6
  · rfl
  · exact fitsSigned_signedField w 9
  · exact decodeShift_wf w
  · rfl
  · exact decodeJump_wf w
  · exact fitsUnsigned_unsignedField w 8
  · rfl
  · exact fitsUnsigned_unsignedField w 8

end

/-! ### The rows and their formats -/

/-- An instruction's row, its ignored bits and their canonical values: the same for all operands. -/
def Instr.format (i : Instr) : OpcodeRow × Word × Word := (i.row, i.ignoredBits, i.canonicalBits)

theorem format_eq_iff {i j : Instr} : i.format = j.format ↔
    i.row = j.row ∧ i.ignoredBits = j.ignoredBits ∧ i.canonicalBits = j.canonicalBits := by
  simp [Instr.format]

/-- One instruction of each row. -/
def rowSamples : List Instr :=
  [.nop 0, .brp 0, .brz 0, .brzp 0, .brn 0, .brnp 0, .brnz 0, .brnzp 0,
    .add .r0 .r0 .r0, .mul .r0 .r0 .r0, .sub .r0 .r0 .r0, .div .r0 .r0 .r0, .addi .r0 .r0 0,
    .cmp .r0 .r0, .cmpu .r0 .r0, .cmpi .r0 0, .cmpiu .r0 0, .jsrr .r0, .jsr 0,
    .and .r0 .r0 .r0, .not .r0 .r0, .or .r0 .r0 .r0, .xor .r0 .r0 .r0, .andi .r0 .r0 0,
    .ldr .r0 .r0 0, .str .r0 .r0 0, .rti, .const .r0 0,
    .sll .r0 .r0 0, .sra .r0 .r0 0, .srl .r0 .r0 0, .mod .r0 .r0 .r0,
    .jmpr .r0, .jmp 0, .hiconst .r0 0, .trap 0, .reserved3 0, .reservedB 0, .reservedE 0]

/-- The format of every row of the table. -/
def rowFormats : List (OpcodeRow × Word × Word) := rowSamples.map Instr.format

theorem format_mem (i : Instr) : i.format ∈ rowFormats := by
  cases i <;> exact List.mem_of_elem_eq_true rfl

/-- Two rows whose patterns agree on both masks are one row. -/
theorem rowFormats_exclusive : ∀ f ∈ rowFormats, ∀ g ∈ rowFormats,
    f.1.pattern &&& g.1.mask = g.1.pattern &&& f.1.mask → f = g := by
  decide

/-- A row's mask holds no ignored bit. -/
theorem rowFormats_masks : ∀ f ∈ rowFormats,
    ~~~f.2.1 &&& f.1.mask = f.1.mask ∧ f.2.2 &&& f.1.mask = 0#16 := by
  decide

/-! ### The row of a word -/

/-- The canonical word is of the instruction's own row. -/
theorem encode_row (i : Instr) : encode i &&& i.row.mask = i.row.pattern := by
  cases i
  case nop | brp | brz | brzp | brn | brnp | brnz | brnzp => exact (mask_branch _ _ _).trans rfl
  case add | mul | sub | div | and | not | or | xor => exact (mask_registers _ _ _ _ _).trans rfl
  case addi | andi => exact (mask_immediate _ _ _ _ _).trans rfl
  case cmp | cmpu => exact (mask_compare _ _ _ _ _).trans rfl
  case cmpi | cmpiu => exact (mask_compareImmediate _ _ _ _).trans rfl
  case jsrr | jmpr => exact (mask_callRegister _ _ _ _ _).trans rfl
  case jsr | jmp => exact (mask_call _ _ _).trans rfl
  case ldr | str => exact (mask_memory _ _ _ _).trans rfl
  case const => exact (mask_const _ _ _).trans rfl
  case sll | sra | srl => exact (mask_shift _ _ _ _ _).trans rfl
  case mod => exact (mask_modulo _ _ _ _ _ _).trans rfl
  case hiconst => exact (mask_hiconst _ _ _ _).trans rfl
  case trap => exact (mask_trap _ _ _).trans rfl
  case rti | reserved3 | reservedB | reservedE => exact (mask_opcode _ _).trans rfl

theorem CanonicalOf.row {i : Instr} {w : Word} (h : CanonicalOf i w) :
    w &&& i.row.mask = i.row.pattern := by
  have hmasks : ~~~i.ignoredBits &&& i.row.mask = i.row.mask ∧
      i.canonicalBits &&& i.row.mask = 0#16 := rowFormats_masks _ (format_mem i)
  obtain ⟨hignored, hcanonical⟩ := hmasks
  calc w &&& i.row.mask
      = (w &&& (~~~i.ignoredBits &&& i.row.mask)) ||| (i.canonicalBits &&& i.row.mask) := by
        rw [hignored, hcanonical, BitVec.or_zero]
    _ = ((w &&& ~~~i.ignoredBits) ||| i.canonicalBits) &&& i.row.mask := by
        ext k hk; simp [Bool.and_or_distrib_right, Bool.and_assoc]
    _ = encode i &&& i.row.mask := by rw [h]
    _ = i.row.pattern := encode_row i

/-- A word is of one row only. -/
theorem format_eq_of_row {i j : Instr} {w : Word} (hi : w &&& i.row.mask = i.row.pattern)
    (hj : w &&& j.row.mask = j.row.pattern) : i.format = j.format := by
  refine rowFormats_exclusive _ (format_mem i) _ (format_mem j) ?_
  change i.row.pattern &&& j.row.mask = j.row.pattern &&& i.row.mask
  rw [← hi, ← hj, BitVec.and_assoc, BitVec.and_assoc, BitVec.and_comm i.row.mask]

theorem decode_row_iff {w : Word} (i : Instr) :
    (decode w).row = i.row ↔ w &&& i.row.mask = i.row.pattern := by
  have hdecode := (decode_canonicalOf w).row
  exact ⟨fun h => h ▸ hdecode, fun h => (format_eq_iff.mp (format_eq_of_row hdecode h)).1⟩

/-- A word decodes to the well-formed instruction whose canonical word is the word's own: both are of one
row, so the same bits are made canonical. -/
theorem CanonicalOf.decode_eq {i : Instr} {w : Word} (h : CanonicalOf i w) (hi : i.wf = true) :
    decode w = i := by
  have hdecode : CanonicalOf (decode w) w := decode_canonicalOf w
  obtain ⟨-, hignored, hcanonical⟩ := format_eq_iff.mp (format_eq_of_row hdecode.row h.row)
  have hencode : encode (decode w) = encode i := by
    rw [CanonicalOf] at h hdecode
    rw [h, hdecode, hignored, hcanonical]
  calc decode w = decode (encode (decode w)) := (decode_encode (decode_wf w)).symm
    _ = decode (encode i) := by rw [hencode]
    _ = i := decode_encode hi

/-- Settles O36: the rows exclude each other, and the word has the row of its canonical form. -/
theorem decodeFollowsTheOpcodeTable : Obligations.DecodeFollowsTheOpcodeTable := fun w =>
  ⟨(decode_canonicalOf w).row, decode_wf w, fun i => (decode_row_iff i).mpr⟩

/-! ### Ignored bits (R105) -/

theorem ignoredBits_ne_zero {i : Instr} (h : i.ignoredBits ≠ 0x0000#16) :
    (∃ a b, i = .cmp a b) ∨ (∃ a b, i = .cmpu a b) ∨ (∃ d a, i = .not d a) ∨
      (∃ a, i = .jsrr a) ∨ (∃ a, i = .jmpr a) ∨ i = .rti ∨ (∃ d a b, i = .mod d a b) ∨
      (∃ d u, i = .hiconst d u) ∨ ∃ v, i = .trap v := by
  cases i
  case cmp | cmpu | not | jsrr | jmpr | rti | mod | hiconst | trap => simp
  all_goals exact absurd rfl h

/-- Settles O37: words that agree outside the ignored bits have one canonical form, which decides what they
decode to. -/
theorem ignoredBitsDoNotMatter : Obligations.IgnoredBitsDoNotMatter := by
  refine ⟨fun w w2 h => ?_, fun _ _ _ _ => ⟨rfl, rfl, rfl, rfl, rfl, rfl, rfl, rfl, rfl⟩,
    fun _ => ignoredBits_ne_zero⟩
  have hcanonical : CanonicalOf (decode w) w2 := by
    rw [CanonicalOf, ← h]
    exact decode_canonicalOf w
  have hdecode : decode w2 = decode w := hcanonical.decode_eq (decode_wf w)
  exact ⟨hdecode, fun _ => by rw [hdecode]⟩

end Sys2Proof
end

section
/-! The reserved classes (R106): the rows that are reserved, and the error of their instructions. -/

namespace Sys2Proof.Machine

open Sys2Proof

/-! ### Reserved words -/

theorem isReserved_iff_row {i : Instr} : i.isReserved = true ↔
    i.row = (Instr.reserved3 0).row ∨ i.row = (Instr.reservedB 0).row ∨
      i.row = (Instr.reservedE 0).row := by
  cases i <;> simp [Instr.isReserved, Instr.row]

/-- A row that fixes bits 15:12 only. -/
theorem and_opcodeMask_iff {w : Word} {o : BitVec 4} :
    w &&& 0xF000#16 = o ++ 0#12 ↔ w.extractLsb' 12 4 = o := by
  have hw : w = w.extractLsb' 12 4 ++ w.extractLsb' 0 12 := eq_opcode_iff.mpr ⟨rfl, rfl⟩
  rw [hw, mask_opcode, append_eq_append_iff, ← hw]
  exact and_iff_left rfl

theorem isReserved_decode {w : Word} : (decode w).isReserved = true ↔
    w.extractLsb' 12 4 = 0b0011#4 ∨ w.extractLsb' 12 4 = 0b1011#4 ∨
      w.extractLsb' 12 4 = 0b1110#4 := by
  rw [isReserved_iff_row, decode_row_iff, decode_row_iff, decode_row_iff]
  exact or_congr (and_opcodeMask_iff (o := 0b0011#4))
    (or_congr (and_opcodeMask_iff (o := 0b1011#4)) (and_opcodeMask_iff (o := 0b1110#4)))

theorem masks_of_isReserved {i : Instr} (h : i.isReserved = true) :
    i.ignoredBits = 0#16 ∧ i.canonicalBits = 0#16 := by
  cases i
  case reserved3 | reservedB | reservedE => exact ⟨rfl, rfl⟩
  all_goals cases h

/-- A reserved class ignores no bit, so its instruction keeps the whole word. -/
theorem encode_decode_of_isReserved {w : Word} (h : (decode w).isReserved = true) :
    encode (decode w) = w := by
  obtain ⟨hignored, hcanonical⟩ := masks_of_isReserved h
  exact (canonicalOf_iff hignored hcanonical).mp (decode_canonicalOf w)

/-! ### Their error (R251) -/

theorem exec_of_isReserved {i : Instr} (h : i.isReserved = true) (s : State) :
    exec i s = .fault (.invalidInstruction (encode i) s.pc) := by
  cases i
  case reserved3 | reservedB | reservedE => rfl
  all_goals cases h

theorem step_of_isReserved {s : State} (hpc : CodeAddress s.pc)
    (h : (decode (s.mem.readWord s.pc)).isReserved = true) :
    step s = .fault (.invalidInstruction (s.mem.readWord s.pc) s.pc) := by
  have hfetch : fetch s = .ok (decode (s.mem.readWord s.pc)) := fetch_ok.mpr ⟨hpc, rfl⟩
  calc step s = exec (decode (s.mem.readWord s.pc)) s := by rw [step, hfetch]
    _ = .fault (.invalidInstruction (encode (decode (s.mem.readWord s.pc))) s.pc) :=
      exec_of_isReserved h s
    _ = .fault (.invalidInstruction (s.mem.readWord s.pc) s.pc) := by
      rw [encode_decode_of_isReserved h]

/-- NOP is never taken, so it advances whatever its offset (R106, R221). -/
theorem exec_nop_offset (off off' : Int) (s : State) : exec (.nop off) s = exec (.nop off') s := rfl

/-- Settles O30: by the rows of the three classes, and the round trip for their words and the zero word. -/
theorem reservedWordsRaiseInvalidInstruction :
    Obligations.ReservedWordsRaiseInvalidInstruction := by
  refine ⟨fun _ => isReserved_decode, fun low s => ⟨?_, ?_, ?_, ?_, ?_, ?_⟩,
    fun _ => step_of_isReserved, ?_, exec_nop_offset⟩
  · exact decode_encode (i := .reserved3 low) rfl
  · exact decode_encode (i := .reservedB low) rfl
  · exact decode_encode (i := .reservedE low) rfl
  · exact exec_of_isReserved (i := .reserved3 low) rfl s
  · exact exec_of_isReserved (i := .reservedB low) rfl s
  · exact exec_of_isReserved (i := .reservedE low) rfl s
  · exact decode_encode (i := .nop 0) rfl

end Sys2Proof.Machine
end

section
/-! The constant instructions and the pseudo-instructions over them (R111, R112): CONST and HICONST in turn
load any word, and CONST alone loads a word whose high byte repeats its ninth bit. -/

namespace Sys2Proof.Machine

open Sys2Proof

/-! ### Running CONST and HICONST (R174, R175) -/

/-- A register write that advances, whole: its completion, its result and its frame (R142, R145). -/
theorem settle_writeRegEffects {s : State} (hpc : CodeAddress (s.pc + 1#16)) (r : Reg) (v : Word)
    (f : Option Nzp) : ∃ t, settle s (writeRegEffects s r v f) = .next t ∧
      RegisterStep s t r v (f.getD s.psr.nzp) := by
  refine ⟨_, settle_next.mpr ⟨_, writeRegEffects_ok.mpr ⟨hpc, rfl⟩, rfl⟩, ?_⟩
  exact ⟨rfl, fun q => commit_reg _ _ q, rfl, rfl, fun _ => rfl, rfl⟩

theorem exec_const_next {s : State} (hpc : CodeAddress (s.pc + 1#16)) (rd : Reg) (imm : Int) :
    ∃ t, exec (.const rd imm) s = .next t ∧ RegisterStep s t rd (signedImm imm)
      (if s.cfg.nzpOnConst then flagsOfWord (signedImm imm) else s.psr.nzp) := by
  rw [← constFlags_getD]
  exact settle_writeRegEffects hpc rd _ _

theorem exec_hiconst_next {s : State} (hpc : CodeAddress (s.pc + 1#16)) (rd : Reg) (uimm : Nat) :
    ∃ t, exec (.hiconst rd uimm) s = .next t ∧
      RegisterStep s t rd (hiconstValue (s.reg rd) uimm)
        (if s.cfg.nzpOnConst then flagsOfWord (hiconstValue (s.reg rd) uimm) else s.psr.nzp) := by
  rw [← constFlags_getD]
  exact settle_writeRegEffects hpc rd _ _

/-! ### The values they load -/

/-- HICONST replaces the high byte (R175). -/
theorem hiconstValue_toNat (old : Word) (hi : Byte) :
    hiconstValue old hi.toNat = wordOfBytes hi (lowByte old) := by
  have hshift : hi.setWidth 16 <<< 8 = (hi ++ 0#8 : Word) := by
    have h := BitVec.setWidth_append_eq_shiftLeft_setWidth_or (b := hi) (b' := 0#8) (w'' := 16)
    simpa using h.symm
  rw [hiconstValue, BitVec.ofNat_toNat, BitVec.setWidth_eq, BitVec.zeroExtend_eq_setWidth, hshift]
  refine (eq_append_iff 8 8).mpr ⟨?_, ?_⟩
  · exact (extract_cleared (by decide)).trans BitVec.extractLsb'_append_eq_left
  · exact extract_kept (by decide) BitVec.extractLsb'_append_eq_right

/-- The sign extension of the low nine bits keeps the low byte. -/
theorem lowByte_signedImm (v : Word) :
    lowByte (signedImm (v.extractLsb' 0 9).toInt) = lowByte v := by
  apply BitVec.eq_of_toNat_eq
  rw [lowByte, lowByte, signedImm, BitVec.extractLsb'_toNat, BitVec.extractLsb'_toNat,
    BitVec.toNat_ofInt, BitVec.toInt_eq_toNat_cond, BitVec.extractLsb'_toNat]
  simp only [Nat.shiftRight_zero]
  split <;> omega

theorem hiconstValue_signedImm (v : Word) :
    hiconstValue (signedImm (v.extractLsb' 0 9).toInt) (v.extractLsb' 8 8).toNat = v := by
  rw [hiconstValue_toNat, lowByte_signedImm]
  exact wordOfBytes_bytes v

/-- Where the high byte is all zeros or all ones, the low nine bits give the word as a signed number. -/
theorem signedImm_of_highByte {v : Word}
    (h : v.extractLsb' 8 8 = 0x00#8 ∨ v.extractLsb' 8 8 = 0xFF#8) :
    signedImm (v.extractLsb' 0 9).toInt = v := by
  have hv := v.isLt
  have hhigh : v.toNat / 256 = 0 ∨ v.toNat / 256 = 255 := by
    simp only [← BitVec.toNat_inj, BitVec.extractLsb'_toNat, BitVec.toNat_ofNat,
      Nat.shiftRight_eq_div_pow] at h
    omega
  have hsame : (v.extractLsb' 0 9).toInt = v.toInt := by
    rw [BitVec.toInt_eq_toNat_cond, BitVec.toInt_eq_toNat_cond, BitVec.extractLsb'_toNat,
      Nat.shiftRight_zero]
    split <;> split <;> omega
  rw [signedImm, hsame, BitVec.ofInt_toInt]

/-! ### CONST and HICONST in turn -/

theorem exec_const_hiconst {s : State} (hfirst : CodeAddress (s.pc + 1#16))
    (hsecond : CodeAddress (s.pc + 2#16)) (rd : Reg) (v : Word) :
    ∃ u t, exec (.const rd (v.extractLsb' 0 9).toInt) s = .next u ∧
      exec (.hiconst rd (v.extractLsb' 8 8).toNat) u = .next t ∧
      OnlyRegister s t rd v ∧ t.pc = s.pc + 2#16 ∧ SameMemory s t := by
  obtain ⟨u, hu, hconst⟩ := exec_const_next hfirst rd (v.extractLsb' 0 9).toInt
  have hpc : u.pc + 1#16 = s.pc + 2#16 := by rw [hconst.pc, BitVec.add_assoc]; rfl
  obtain ⟨t, ht, hhigh⟩ := exec_hiconst_next (hpc ▸ hsecond) rd (v.extractLsb' 8 8).toNat
  have hvalue : hiconstValue (u.reg rd) (v.extractLsb' 8 8).toNat = v := by
    rw [hconst.regs, if_pos rfl, hiconstValue_signedImm]
  refine ⟨u, t, hu, ht, fun q => ?_, hhigh.pc.trans hpc, fun k => ?_⟩
  · rw [hhigh.regs, hvalue, hconst.regs]
    split <;> rfl
  · rw [hhigh.memory, hconst.memory]

/-- Settles O52: LEA is the pair of the two halves of its label. -/
theorem leaLoadsItsLabel : Obligations.LeaLoadsItsLabel := fun rd label _ =>
  ⟨rfl, fun hfirst hsecond => exec_const_hiconst hfirst hsecond rd label⟩

/-! ### The constant table (R112) -/

theorem lookupConstant_of_unique {table : ConstantTable} {name : List Byte} {i : Int}
    (h : ∀ j, (name, j) ∈ table ↔ j = i) : lookupConstant table name = .ok i := by
  cases hl : lookupConstant table name with
  | ok j => rw [(h j).mp (lookupConstant_mem hl)]
  | error e =>
    obtain ⟨-, habsent⟩ := lookupConstant_error.mp hl
    exact absurd ((h i).mpr rfl) (habsent i)

theorem expandLcNamed_of_absent (rd : Reg) {table : ConstantTable} {name : List Byte}
    (h : ∀ i, (name, i) ∉ table) : expandLcNamed rd table name = .error .absentName := by
  rw [expandLcNamed, lookupConstant_error.mpr ⟨rfl, h⟩]

theorem expandLcNamed_of_unique (rd : Reg) {table : ConstantTable} {name : List Byte} {i : Int}
    (h : ∀ j, (name, j) ∈ table ↔ j = i) (hlo : -32768 ≤ i) (hhi : i ≤ 65535) :
    expandLcNamed rd table name = .ok (expandLc rd (BitVec.ofInt 16 i)) := by
  rw [expandLcNamed, lookupConstant_of_unique h]
  exact if_pos ⟨hlo, hhi⟩

/-- Settles O53: the short expansion where sign extension gives the value, the pair otherwise. -/
theorem lcLoadsItsValue : Obligations.LcLoadsItsValue := by
  refine ⟨fun rd table name =>
      ⟨expandLcNamed_of_absent rd, fun i => expandLcNamed_of_unique rd⟩, fun rd v s hfirst =>
      ⟨fun hsign => ⟨if_pos hsign, ?short⟩, fun hzeros hones hsecond => ⟨?expansion, ?long⟩⟩⟩
  case short =>
    obtain ⟨t, ht, hconst⟩ := exec_const_next hfirst rd (v.extractLsb' 0 9).toInt
    rw [signedImm_of_highByte hsign] at hconst
    exact ⟨t, ht, hconst.regs, hconst.memory⟩
  case expansion => exact if_neg (not_or.mpr ⟨hzeros, hones⟩)
  case long =>
    obtain ⟨u, t, hu, ht, hregs, -, hmem⟩ := exec_const_hiconst hfirst hsecond rd v
    exact ⟨u, t, hu, ht, hregs, hmem⟩

end Sys2Proof.Machine
end

section
/-! The linker's relocation formulas (R110) against the targets of the instructions (R221, R223, R225). -/

namespace Sys2Proof.Machine

open Sys2Proof

/-! ### BR and JMP -/

theorem relocRelative_ok {n : Nat} {addr target : Word} {d : Int} :
    relocRelative n addr target = .ok d ↔
      (target.toNat : Int) = addr.toNat + 1 + d ∧ fitsSigned n d = true := by
  unfold relocRelative
  constructor
  · intro h
    dsimp only at h
    split at h
    · next hfit => cases h; exact ⟨by omega, hfit⟩
    · cases h
  · rintro ⟨hd, hfit⟩
    have hdiff : (target.toNat : Int) - ((addr.toNat : Int) + 1) = d := by omega
    simp only [hdiff, hfit, if_true]

/-- The displacement between two addresses leads from one to the other, also modulo 2^16. -/
theorem relativeTarget_eq {addr target : Word} {d : Int}
    (h : (target.toNat : Int) = addr.toNat + 1 + d) : relativeTarget addr d = target := by
  apply BitVec.eq_of_toNat_eq
  have ht := target.isLt
  rw [relativeTarget, signedImm, BitVec.toNat_add, BitVec.toNat_add, BitVec.toNat_ofInt,
    BitVec.toNat_ofNat]
  omega

theorem relativeTarget_of_relocRelative {n : Nat} {addr target : Word} {d : Int}
    (h : relocRelative n addr target = .ok d) :
    fitsSigned n d = true ∧ relativeTarget addr d = target := by
  obtain ⟨hd, hfit⟩ := relocRelative_ok.mp h
  exact ⟨hfit, relativeTarget_eq hd⟩

/-! ### JSR -/

theorem relocJsr_ok {target : Word} {raw : BitVec 11} (h : relocJsr target = .ok raw) :
    target.toNat % 16 = 0 ∧ raw.toInt = (target.toNat / 16 : Nat) := by
  unfold relocJsr at h
  split at h
  · cases h
  · next halign =>
    split at h
    · next hfit =>
      cases h
      refine ⟨not_not.mp halign, ?_⟩
      rw [← BitVec.ofInt_natCast, toInt_ofInt_of_fitsSigned (by decide) hfit]
    · cases h

/-- The ABS target is 16 times the signed page number, modulo 2^16 (R225). -/
theorem jsrTarget_abs_toNat {c : Config} (hc : c.jsrTarget = .abs) (pc : Word)
    (raw : BitVec 11) : ((jsrTarget c pc raw).toNat : Int) = raw.toInt * 16 % 65536 := by
  have habs : jsrTarget c pc raw = raw.signExtend 16 <<< 4 := by rw [jsrTarget, hc]
  rw [habs, BitVec.toNat_shiftLeft, BitVec.signExtend, BitVec.toNat_ofInt, Nat.shiftLeft_eq]
  omega

/-- Settles O54: a displacement is the difference of its two addresses, and 16 times a signed 11-bit page
number is below 0x4000 or at least 0xC000, so the code addresses among these targets are in user code. -/
theorem relocationsInvertTheTargets : Obligations.RelocationsInvertTheTargets := by
  refine ⟨fun addr target d => ⟨relativeTarget_of_relocRelative, relativeTarget_of_relocRelative,
    fun hd hfit => relocRelative_ok.mpr ⟨hd, hfit⟩, fun hd hfit => relocRelative_ok.mpr ⟨hd, hfit⟩⟩,
    fun c pc target raw hc => ⟨fun h => ?target, fun hcode => ?userCode⟩⟩
  case target =>
    obtain ⟨halign, hraw⟩ := relocJsr_ok h
    have htarget := jsrTarget_abs_toNat hc pc raw
    have hlt := target.isLt
    exact ⟨halign, BitVec.eq_of_toNat_eq (by omega)⟩
  case userCode =>
    have htarget := jsrTarget_abs_toNat hc pc raw
    have hlo := BitVec.le_toInt raw
    have hhi := BitVec.toInt_lt (x := raw)
    omega

end Sys2Proof.Machine
end

section
/-! The step (R140, R141): past the fetch guard it is `exec` of the decoded instruction, and elsewhere it is
the error of the guard. -/

namespace Sys2Proof.Machine

open Sys2Proof

theorem step_eq_exec {s : State} {i : Instr} (hpc : CodeAddress s.pc)
    (hi : decode (s.mem.readWord s.pc) = i) : step s = exec i s := by
  rw [step, fetch_ok.mpr ⟨hpc, hi⟩]

theorem step_of_not_codeAddress {s : State} (hpc : ¬ CodeAddress s.pc) :
    step s = .fault (.pcInReservedRange s.pc s.pc) := by
  rw [step, fetch_error.mpr ⟨hpc, rfl⟩]

/-- Settles O31: the two bytes at `pc` are the word that the fetch reads, and decoding the canonical word of a
well-formed instruction gives it back (R108). -/
theorem stepRunsTheDecodedInstruction : Obligations.StepRunsTheDecodedInstruction := by
  intro s i hpc hi
  refine ⟨fun hbytes => step_eq_exec hpc hbytes, fun hword => step_eq_exec hpc ?_⟩
  rw [hword, decode_encode hi]

/-- Settles O32: the fetch guard stops before anything is read. -/
theorem fetchGuardStopsAtNonCodeAddresses : Obligations.FetchGuardStopsAtNonCodeAddresses :=
  fun _ => step_of_not_codeAddress

end Sys2Proof.Machine
end

section
/-! The flags of a value (R147) and the word value of the PSR (R40), bit by bit. -/

namespace Sys2Proof.Machine

open Sys2Proof

/-! ### The flags of a value -/

section
variable (v : Word)

@[simp] theorem setNzp_n : (setNzp v).n = true ↔ v.toInt < 0 := decide_eq_true_iff
@[simp] theorem setNzp_z : (setNzp v).z = true ↔ v = 0x0000#16 := decide_eq_true_iff
@[simp] theorem setNzp_p : (setNzp v).p = true ↔ 0 < v.toInt := decide_eq_true_iff

end

/-! ### The word value of the PSR -/

section
variable (q : Psr)

/-- The word value field by field: the flags, twelve zeros, the mode. -/
theorem Psr.word_getLsbD (k : Nat) :
    q.word.getLsbD k =
      if k < 3 then q.nzp.bits.getLsbD k
      else if k - 3 < 12 then false
      else (BitVec.ofBool (decide (q.mode = .os))).getLsbD (k - 3 - 12) := by
  refine BitVec.getLsbD_append.trans ?_
  rw [BitVec.getLsbD_append, BitVec.getLsbD_zero]

theorem Psr.word_getLsbD_mode : q.word.getLsbD 15 = true ↔ q.mode = .os := by
  rw [Psr.word_getLsbD, if_neg (by decide), if_neg (by decide)]
  simp

theorem Psr.word_getLsbD_unused {k : Nat} (hlo : 3 ≤ k) (hhi : k ≤ 14) :
    q.word.getLsbD k = false := by
  rw [Psr.word_getLsbD, if_neg (by omega), if_pos (by omega)]

theorem Nzp.bits_getLsbD (f : Nzp) :
    f.bits.getLsbD 2 = f.n ∧ f.bits.getLsbD 1 = f.z ∧ f.bits.getLsbD 0 = f.p := by
  obtain ⟨n, z, p⟩ := f
  revert n z p
  decide

theorem Psr.word_getLsbD_flags :
    q.word.getLsbD 2 = q.nzp.n ∧ q.word.getLsbD 1 = q.nzp.z ∧ q.word.getLsbD 0 = q.nzp.p := by
  have hlow {k : Nat} (hk : k < 3) : q.word.getLsbD k = q.nzp.bits.getLsbD k :=
    (q.word_getLsbD k).trans (if_pos hk)
  rw [hlow (by decide), hlow (by decide), hlow (by decide)]
  exact q.nzp.bits_getLsbD

end

/-- Settles O47: flag by flag, and field by field of the word value. -/
theorem flagsFollowTheSignAndFillThePsr : Obligations.FlagsFollowTheSignAndFillThePsr :=
  ⟨fun v => ⟨setNzp_n v, setNzp_z v, setNzp_p v, setNzp_oneHot v⟩,
    fun q => ⟨q.word_getLsbD_mode, fun _ => q.word_getLsbD_unused, q.word_getLsbD_flags⟩⟩

end Sys2Proof.Machine
end

section
/-! DIV and MOD (R150) against the division of bit vectors: each of the two formulas of R150 is the library's
quotient or remainder, signed or unsigned. -/

namespace Sys2Proof.Machine

open Sys2Proof

/-! ### The formulas of R150 -/

section
variable (a b : Word)

/-- Both wrap the truncated quotient, which leaves the range at -32768 / -1 only. -/
theorem ofInt_tdiv_eq_sdiv : BitVec.ofInt 16 (a.toInt.tdiv b.toInt) = a.sdiv b :=
  BitVec.eq_of_toInt_eq (by rw [BitVec.toInt_ofInt, BitVec.toInt_sdiv])

theorem ofInt_sub_mul_tdiv_eq_srem :
    BitVec.ofInt 16 (a.toInt - b.toInt * a.toInt.tdiv b.toInt) = a.srem b := by
  rw [← Int.tmod_def, ← BitVec.toInt_srem, BitVec.ofInt_toInt]

theorem ofNat_div_eq_udiv : BitVec.ofNat 16 (a.toNat / b.toNat) = a.udiv b :=
  BitVec.udiv_def.symm

theorem ofNat_mod_eq_umod : BitVec.ofNat 16 (a.toNat % b.toNat) = a.umod b :=
  BitVec.umod_def.symm

end

/-! ### DIV and MOD -/

section
variable (c : Config) (a b : Word)

@[simp] theorem divValue_zero : divValue c a 0#16 = 0#16 := if_pos rfl
@[simp] theorem modValue_zero : modValue c a 0#16 = 0#16 := if_pos rfl

/-- The quotients of bit vectors are themselves 0 for a zero divisor. -/
theorem divValue_eq : divValue c a b = if c.divSigned then a.sdiv b else a.udiv b := by
  by_cases hb : b = 0#16
  · subst hb
    rw [divValue_zero, BitVec.sdiv_zero, BitVec.udiv_eq, BitVec.udiv_zero, ite_self]
  · rw [divValue, if_neg hb, ofInt_tdiv_eq_sdiv, ofNat_div_eq_udiv]

theorem modValue_eq :
    modValue c a b =
      if b = 0#16 then 0#16 else if c.divSigned then a.srem b else a.umod b := by
  rw [modValue, ofInt_sub_mul_tdiv_eq_srem, ofNat_mod_eq_umod]

end

/-- Settles O49: by the formulas of R150, and the quotient that wraps by its value. -/
theorem divisionMatchesBitVectorDivision : Obligations.DivisionMatchesBitVectorDivision := by
  refine ⟨fun c a b => ⟨divValue_eq c a b, modValue_eq c a b, divValue_zero c a, modValue_zero c a⟩,
    fun c hc => ⟨?quotient, ?remainder⟩⟩
  case quotient => rw [divValue_eq, if_pos hc]; decide
  case remainder => rw [modValue_eq, if_pos hc]; decide

end Sys2Proof.Machine
end

section
/-! The error table (R251, R252): what makes an instruction raise each error, said once for all
instructions. -/

namespace Sys2Proof.Machine

open Sys2Proof

/-- Why `i` raises an error in state `s`, one constructor for each cause in R252: the straight-line guard of
R142, which a taken branch and a refused data access do not reach; the target check of R143, which a branch
that is not taken does not reach; the two parts of the data check of R67; a reserved word (R106). -/
inductive ErrorCause (i : Instr) (s : State) : Fault → Prop where
  | advance (target : ¬ CodeAddress (s.pc + 1#16)) (advances : mayAdvance i = true)
      (branch : ∀ c, branchField i = some c → ¬ BranchCondition c s.psr.nzp)
      (data : ∀ a, dataAddress s i = some a → DataAllowed s a) :
      ErrorCause i s (.pcInReservedRange (s.pc + 1#16) s.pc)
  | jump {t : Word} (target : ¬ CodeAddress t) (jumps : mayRejectJump i = true)
      (branch : ∀ c, branchField i = some c → BranchCondition c s.psr.nzp) :
      ErrorCause i s (.invalidJump t s.pc)
  | privilege {a : Word} (access : dataAddress s i = some a) (address : OsAddress a)
      (mode : s.psr.mode = .user) : ErrorCause i s (.invalidMemoryAccess true s.pc)
  | structural {a : Word} (access : dataAddress s i = some a) (address : a.toNat < 0x2000)
      (checked : s.cfg.userCodeDataFault = true) :
      ErrorCause i s (.invalidMemoryAccess false s.pc)
  | reserved (reserved : i.isReserved = true) :
      ErrorCause i s (.invalidInstruction (encode i) s.pc)

theorem ErrorCause.fault_pc {i : Instr} {s : State} {f : Fault} (h : ErrorCause i s f) :
    f.pc = s.pc := by
  cases h <;> rfl

/-! ### Branches (R220, R221) -/

/-- A condition field as the flags it selects (R94). -/
def selectedFlags (c : BitVec 3) : Nzp :=
  { n := c.getLsbD 2, z := c.getLsbD 1, p := c.getLsbD 0 }

theorem branchTaken_selectedFlags {c : BitVec 3} {f : Nzp} :
    branchTaken (selectedFlags c) f = true ↔ BranchCondition c f := by
  simp [branchTaken, selectedFlags, BranchCondition, or_assoc]

section
variable {i : Instr} {s : State} {f : Fault}

theorem effectsOf_branch {c : BitVec 3} (hi : branchField i = some c) :
    ∃ off, effectsOf i s = branchEffects s (selectedFlags c) off := by
  cases i
  case nop off | brp off | brz off | brzp off | brn off | brnp off | brnz off | brnzp off =>
    cases hi; exact ⟨off, rfl⟩
  all_goals cases hi

theorem mayAdvance_of_branchField {c : BitVec 3} (hi : branchField i = some c) :
    mayAdvance i = true := by
  cases i
  case nop | brp | brz | brzp | brn | brnp | brnz | brnzp => rfl
  all_goals cases hi

/-- Only NOP, whose condition field is 000, cannot be taken. -/
theorem mayRejectJump_of_branchCondition {c : BitVec 3} {g : Nzp} (hi : branchField i = some c)
    (hc : BranchCondition c g) : mayRejectJump i = true := by
  cases i
  case nop => cases hi; simp [BranchCondition] at hc
  case brp | brz | brzp | brn | brnp | brnz | brnzp => rfl
  all_goals cases hi

theorem dataAddress_of_branchField {c : BitVec 3} (hi : branchField i = some c) :
    dataAddress s i = none := by
  cases i
  case nop | brp | brz | brzp | brn | brnp | brnz | brnzp => rfl
  all_goals cases hi

theorem branch_errorCause {c : BitVec 3} (hi : branchField i = some c)
    (h : effectsOf i s = .error f) : ErrorCause i s f := by
  obtain ⟨off, hoff⟩ := effectsOf_branch (s := s) hi
  rw [hoff] at h
  by_cases hc : BranchCondition c s.psr.nzp
  · rw [branchEffects_taken (branchTaken_selectedFlags.mpr hc)] at h
    obtain ⟨ht, rfl⟩ := jumpEffects_error.mp h
    refine .jump ht (mayRejectJump_of_branchCondition hi hc) fun c' hc' => ?_
    cases hi.symm.trans hc'; exact hc
  · have hnot : branchTaken (selectedFlags c) s.psr.nzp = false :=
      Bool.eq_false_of_not_eq_true (mt branchTaken_selectedFlags.mp hc)
    obtain ⟨ht, rfl⟩ := (branchEffects_notTaken_error hnot).mp h
    refine .advance ht (mayAdvance_of_branchField hi) (fun c' hc' => ?_) (fun a ha => ?_)
    · cases hi.symm.trans hc'; exact hc
    · cases (dataAddress_of_branchField hi).symm.trans ha

/-! ### Data accesses (R67, R140) -/

theorem mayAdvance_of_dataAddress {a : Word} (hi : dataAddress s i = some a) :
    mayAdvance i = true := by
  cases i
  case ldr | str => rfl
  all_goals cases hi

/-- LDR and STR raise the same three errors in the same order. -/
theorem dataAccess_errorCause {a : Word} (hi : dataAddress s i = some a)
    (h : (OsAddress a ∧ s.psr.mode = .user ∧ f = .invalidMemoryAccess true s.pc) ∨
      (a.toNat < 0x2000 ∧ s.cfg.userCodeDataFault = true ∧ f = .invalidMemoryAccess false s.pc) ∨
      (DataAllowed s a ∧ ¬ CodeAddress (s.pc + 1#16) ∧
        f = .pcInReservedRange (s.pc + 1#16) s.pc)) :
    ErrorCause i s f := by
  obtain ⟨hos, hm, rfl⟩ | ⟨hlow, hu, rfl⟩ | ⟨hd, ht, rfl⟩ := h
  · exact .privilege hi hos hm
  · exact .structural hi hlow hu
  · refine .advance ht (mayAdvance_of_dataAddress hi) (fun c hc => ?_) (fun a' ha' => ?_)
    · cases (dataAddress_of_branchField hc).symm.trans hi
    · cases hi.symm.trans ha'; exact hd

/-! ### All instructions -/

/-- Whatever the instruction, its error has a cause. -/
theorem effects_errorCause (h : effectsOf i s = .error f) : ErrorCause i s f := by
  cases i
  case nop | brp | brz | brzp | brn | brnp | brnz | brnzp => exact branch_errorCause rfl h
  case ldr => exact dataAccess_errorCause rfl (ldrEffects_error h)
  case str => exact dataAccess_errorCause rfl (strEffects_error h)
  case jmp | jmpr =>
    obtain ⟨ht, rfl⟩ := jumpEffects_error.mp h
    exact .jump ht rfl nofun
  case jsr | jsrr =>
    obtain ⟨ht, rfl⟩ := callEffects_error.mp h
    exact .jump ht rfl nofun
  case rti =>
    obtain ⟨ht, rfl⟩ := trapReturn_error.mp h
    exact .jump ht rfl nofun
  case trap v => cases (trapEntry_eq s v).symm.trans h
  case reserved3 | reservedB | reservedE => cases h; exact .reserved rfl
  case cmp | cmpu | cmpi | cmpiu =>
    obtain ⟨ht, rfl⟩ := compareEffects_error.mp h
    exact .advance ht rfl nofun nofun
  all_goals
    obtain ⟨ht, rfl⟩ := writeRegEffects_error.mp h
    exact .advance ht rfl nofun nofun

theorem exec_errorCause (h : exec i s = .fault f) : ErrorCause i s f := by
  rw [exec_eq_settle, settle_fault] at h
  exact effects_errorCause h

end

/-- The last addresses of the two code regions (R65). -/
theorem eq_last_of_codeAddress {a : Word} (ha : CodeAddress a) (hnext : ¬ CodeAddress (a + 1#16)) :
    a = 0x1FFF#16 ∨ a = 0x9FFF#16 := by
  unfold CodeAddress at ha hnext
  bv_omega

/-- Settles O44: by the cause of the error, which its kind determines. -/
theorem errorsHaveTheirCause : Obligations.ErrorsHaveTheirCause := by
  intro i s f h
  have hcause := exec_errorCause h
  refine ⟨hcause.fault_pc, ?advance, ?jump, ?privilege, ?structural, ?reserved⟩
  case advance =>
    rintro a p rfl
    cases hcause with
    | advance ht hadv hb hd =>
      exact ⟨rfl, ht, hadv, fun hpc => eq_last_of_codeAddress hpc ht, hb, hd⟩
  case jump =>
    rintro a p rfl
    cases hcause with
    | jump ht hjump hb => exact ⟨ht, hjump, hb⟩
  case privilege =>
    rintro p rfl
    cases hcause with
    | privilege ha hos hm => exact ⟨_, ha, hos, hm⟩
  case structural =>
    rintro p rfl
    cases hcause with
    | structural ha hlow hu => exact ⟨_, ha, hlow, hu⟩
  case reserved =>
    rintro w p rfl
    cases hcause with
    | reserved hi => exact ⟨hi, rfl⟩

end Sys2Proof.Machine
end

section
/-! The ALU instructions (41_alu.md R160 to R175): each decodes from the word that its encoding draws, whatever
the bits its format ignores, and each ends in a register write that advances, so one lemma gives the
completion, the result, the flags, the frame and the only error of all of them. -/

namespace Sys2Proof.Machine

open Sys2Proof

/-! ### Words with ignored bits (R105) -/

/-- A word that differs from the canonical word of `i` in ignored bits only; `m` is the mask of the others. -/
theorem decode_of_masked_eq {i : Instr} {w m : Word} (hi : i.wf = true)
    (hm : ~~~i.ignoredBits = m) (h : w &&& m = encode i &&& m) : decode w = i := by
  obtain ⟨hignored, -⟩ := ignoredBitsDoNotMatter
  have hmasked : encode i &&& ~~~(decode (encode i)).ignoredBits =
      w &&& ~~~(decode (encode i)).ignoredBits := by rw [decode_encode hi, hm, h]
  obtain ⟨hdecode, -⟩ := hignored (encode i) w hmasked
  exact hdecode.trans (decode_encode hi)

/-- Concatenations agree under a mask when their fields agree under its fields. -/
theorem masked_append {n k : Nat} {x x' m : BitVec n} {y y' c : BitVec k} (hx : x &&& m = x' &&& m)
    (hy : y &&& c = y' &&& c) : (x ++ y) &&& (m ++ c) = (x' ++ y') &&& (m ++ c) :=
  (keep_append hx hy).trans BitVec.and_append.symm

theorem masked_zero {n : Nat} (x y : BitVec n) : x &&& 0#n = y &&& 0#n := by
  rw [BitVec.and_zero, BitVec.and_zero]

/-- NOT ignores field C (R105). -/
theorem decode_not (d a : Reg) (x : BitVec 3) :
    decode (0b0101#4 ++ d.bits ++ a.bits ++ 0b001#3 ++ x) = .not d a := by
  have hmask : ~~~0x0007#16 = 0x1FFF#13 ++ 0#3 := by decide
  exact decode_of_masked_eq rfl hmask (masked_append rfl (masked_zero x 0#3))

/-- MOD ignores bit 3 (R105). -/
theorem decode_mod (d a b : Reg) (x : BitVec 1) :
    decode (0b1010#4 ++ d.bits ++ a.bits ++ 0b11#2 ++ x ++ b.bits) = .mod d a b := by
  have hmask : ~~~0x0008#16 = 0xFFF#12 ++ 0#1 ++ 7#3 := by decide
  exact decode_of_masked_eq rfl hmask (masked_append (masked_append rfl (masked_zero x 0#1)) rfl)

/-- HICONST ignores bit 8 (R102, R105). -/
theorem decode_hiconst (d : Reg) (x : BitVec 1) (u : BitVec 8) :
    decode (0b1101#4 ++ d.bits ++ x ++ u) = .hiconst d u.toNat := by
  have hmask : ~~~0x0100#16 = 0x7F#7 ++ 0#1 ++ 0xFF#8 := by decide
  refine decode_of_masked_eq (fitsUnsigned_toNat u) hmask ?_
  rw [encode, BitVec.ofNat_toNat, BitVec.setWidth_eq]
  exact masked_append (masked_append rfl (masked_zero x 1#1)) rfl

/-! ### Immediates as words (R13, R93) -/

/-- `sext_n` of R13 is the word of the field's signed value. -/
theorem signedImm_toInt {n : Nat} (x : BitVec n) : signedImm x.toInt = x.signExtend 16 := rfl

/-- HICONST's value (R175), its immediate as the field. -/
theorem hiconstValue_field (old : Word) (u : BitVec 8) :
    hiconstValue old u.toNat = (old &&& 0x00FF#16) ||| (u.setWidth 16 <<< 8) := by
  rw [hiconstValue, BitVec.ofNat_toNat, BitVec.setWidth_eq, BitVec.zeroExtend_eq_setWidth]
  rfl

/-! ### The outcome of a register write (R142, R145) -/

section
variable {i : Instr} {s : State} {d : Reg} {v : Word}

/-- What such an instruction does at each verdict of the straight-line guard; `g` are the flags it leaves. -/
theorem exec_of_writeRegEffects {f : Option Nzp} {g : Nzp}
    (hi : effectsOf i s = writeRegEffects s d v f) (hg : f.getD s.psr.nzp = g) :
    (CodeAddress (s.pc + 1#16) → ∃ t, exec i s = .next t ∧ RegisterStep s t d v g) ∧
    (¬ CodeAddress (s.pc + 1#16) →
      exec i s = .fault (.pcInReservedRange (s.pc + 1#16) s.pc)) := by
  rw [exec_eq_settle, hi, ← hg]
  constructor
  · intro hpc
    exact settle_writeRegEffects hpc d v f
  · intro hpc
    exact settle_fault.mpr (writeRegEffects_error.mpr ⟨hpc, rfl⟩)

/-- The instructions that always set the flags from their result (R160 to R173). -/
theorem exec_of_aluEffects {w : Word} (hi : effectsOf i s = aluEffects s d w) (v : Word)
    (hv : v = w) :
    (CodeAddress (s.pc + 1#16) →
      ∃ t, exec i s = .next t ∧ RegisterStep s t d v (flagsOfWord v)) ∧
    (¬ CodeAddress (s.pc + 1#16) →
      exec i s = .fault (.pcInReservedRange (s.pc + 1#16) s.pc)) := by
  subst hv
  exact exec_of_writeRegEffects hi (setNzp_eq v)

end

/-! ### Class 0001 (R160 to R164) -/

/-- Settles O1: the register write of the sum. -/
theorem addWritesTheSum : Obligations.AddWritesTheSum := by
  intro d a b s
  have heffects : effectsOf (.add d a b) s = aluEffects s d (s.reg a + s.reg b) := rfl
  exact ⟨decode_encode (i := .add d a b) rfl, exec_of_aluEffects heffects⟩

/-- Settles O2: the register write of the low word of the product. -/
theorem mulWritesTheLowProduct : Obligations.MulWritesTheLowProduct := by
  intro d a b s
  have heffects : effectsOf (.mul d a b) s = aluEffects s d (mulValue (s.reg a) (s.reg b)) := rfl
  exact ⟨decode_encode (i := .mul d a b) rfl, exec_of_aluEffects heffects⟩

/-- Settles O3: the register write of the difference. -/
theorem subWritesTheDifference : Obligations.SubWritesTheDifference := by
  intro d a b s
  have heffects : effectsOf (.sub d a b) s = aluEffects s d (s.reg a - s.reg b) := rfl
  exact ⟨decode_encode (i := .sub d a b) rfl, exec_of_aluEffects heffects⟩

/-- Settles O4: the register write of the quotient, whose three cases are those of `divValue`. -/
theorem divWritesTheQuotient : Obligations.DivWritesTheQuotient := by
  intro d a b s
  have heffects : effectsOf (.div d a b) s =
      aluEffects s d (divValue s.cfg (s.reg a) (s.reg b)) := rfl
  exact ⟨decode_encode (i := .div d a b) rfl, exec_of_aluEffects heffects⟩

/-- Settles O5: the register write of the sum with the field's sign extension. -/
theorem addiAddsTheSignedImmediate : Obligations.AddiAddsTheSignedImmediate := by
  intro d a imm s
  have heffects : effectsOf (.addi d a imm.toInt) s =
      aluEffects s d (s.reg a + imm.signExtend 16) := by rw [← signedImm_toInt]; rfl
  exact ⟨decode_of_eq_encode (fitsSigned_toInt imm) (by rw [encode, BitVec.ofInt_toInt]),
    exec_of_aluEffects heffects⟩

/-! ### Class 0101 (R165 to R169) -/

/-- Settles O6: the register write of the conjunction. -/
theorem andWritesTheConjunction : Obligations.AndWritesTheConjunction := by
  intro d a b s
  have heffects : effectsOf (.and d a b) s = aluEffects s d (s.reg a &&& s.reg b) := rfl
  exact ⟨decode_encode (i := .and d a b) rfl, exec_of_aluEffects heffects⟩

/-- Settles O7: the register write of the complement; field C is ignored. -/
theorem notWritesTheComplement : Obligations.NotWritesTheComplement := by
  intro d a x s
  have heffects : effectsOf (.not d a) s = aluEffects s d (~~~(s.reg a)) := rfl
  exact ⟨decode_not d a x, exec_of_aluEffects heffects⟩

/-- Settles O8: the register write of the disjunction. -/
theorem orWritesTheDisjunction : Obligations.OrWritesTheDisjunction := by
  intro d a b s
  have heffects : effectsOf (.or d a b) s = aluEffects s d (s.reg a ||| s.reg b) := rfl
  exact ⟨decode_encode (i := .or d a b) rfl, exec_of_aluEffects heffects⟩

/-- Settles O9: the register write of the exclusive or. -/
theorem xorWritesTheExclusiveOr : Obligations.XorWritesTheExclusiveOr := by
  intro d a b s
  have heffects : effectsOf (.xor d a b) s = aluEffects s d (s.reg a ^^^ s.reg b) := rfl
  exact ⟨decode_encode (i := .xor d a b) rfl, exec_of_aluEffects heffects⟩

/-- Settles O10: the register write of the conjunction with the field's sign extension. -/
theorem andiMasksWithTheSignedImmediate : Obligations.AndiMasksWithTheSignedImmediate := by
  intro d a imm s
  have heffects : effectsOf (.andi d a imm.toInt) s =
      aluEffects s d (s.reg a &&& imm.signExtend 16) := by rw [← signedImm_toInt]; rfl
  exact ⟨decode_of_eq_encode (fitsSigned_toInt imm) (by rw [encode, BitVec.ofInt_toInt]),
    exec_of_aluEffects heffects⟩

/-! ### Class 1010 (R170 to R173) -/

/-- Settles O11: the register write of the left shift. -/
theorem sllShiftsZerosInFromTheRight : Obligations.SllShiftsZerosInFromTheRight := by
  intro d a k s
  have heffects : effectsOf (.sll d a k.toNat) s =
      aluEffects s d (sllValue (s.reg a) k.toNat) := rfl
  exact ⟨decode_of_eq_encode (fitsUnsigned_toNat k)
    (by rw [encode, BitVec.ofNat_toNat, BitVec.setWidth_eq]), exec_of_aluEffects heffects⟩

/-- Settles O12: the register write of the arithmetic right shift. -/
theorem sraShiftsCopiesOfTheSignIn : Obligations.SraShiftsCopiesOfTheSignIn := by
  intro d a k s
  have heffects : effectsOf (.sra d a k.toNat) s =
      aluEffects s d (sraValue (s.reg a) k.toNat) := rfl
  exact ⟨decode_of_eq_encode (fitsUnsigned_toNat k)
    (by rw [encode, BitVec.ofNat_toNat, BitVec.setWidth_eq]), exec_of_aluEffects heffects⟩

/-- Settles O13: the register write of the logical right shift. -/
theorem srlShiftsZerosInFromTheLeft : Obligations.SrlShiftsZerosInFromTheLeft := by
  intro d a k s
  have heffects : effectsOf (.srl d a k.toNat) s =
      aluEffects s d (srlValue (s.reg a) k.toNat) := rfl
  exact ⟨decode_of_eq_encode (fitsUnsigned_toNat k)
    (by rw [encode, BitVec.ofNat_toNat, BitVec.setWidth_eq]), exec_of_aluEffects heffects⟩

/-- Settles O14: the register write of the remainder, whose three cases are those of `modValue`. -/
theorem modWritesTheRemainder : Obligations.ModWritesTheRemainder := by
  intro d a b x s
  have heffects : effectsOf (.mod d a b) s =
      aluEffects s d (modValue s.cfg (s.reg a) (s.reg b)) := rfl
  exact ⟨decode_mod d a b x, exec_of_aluEffects heffects⟩

/-! ### Classes 1001 and 1101 (R174, R175) -/

/-- Settles O15: the register write of the sign extension, with the flags as `NZP_ON_CONST` has them. -/
theorem constWritesTheSignedImmediate : Obligations.ConstWritesTheSignedImmediate := by
  intro d imm s
  refine ⟨decode_of_eq_encode (fitsSigned_toInt imm) (by rw [encode, BitVec.ofInt_toInt]), ?_⟩
  rintro v rfl
  rw [← signedImm_toInt]
  exact exec_of_writeRegEffects rfl (constFlags_getD _ _ _)

/-- Settles O16: the register write of the word with its high byte replaced, with the flags as
`NZP_ON_CONST` has them. -/
theorem hiconstReplacesTheHighByte : Obligations.HiconstReplacesTheHighByte := by
  intro d x u s
  refine ⟨decode_hiconst d x u, ?_⟩
  rintro v rfl
  rw [← hiconstValue_field]
  exact exec_of_writeRegEffects rfl (constFlags_getD _ _ _)

end Sys2Proof.Machine
end

section
/-! The compares (42_compare.md R200 to R203): each ends in the flags of an exact comparison of two integers and
the advance, so one lemma gives the completion, the flags, the frame and the only error of all four. -/

namespace Sys2Proof.Machine

open Sys2Proof

/-! ### The outcome of a comparison (R142, R145, R148) -/

section
variable {s : State}

/-- A comparison that advances, whole: its completion, its flags and its frame. -/
theorem settle_compareEffects (hpc : CodeAddress (s.pc + 1#16)) (m n : Int) :
    ∃ t, settle s (compareEffects s m n) = .next t ∧ FlagStep s t (flagsOfOrder m n) := by
  refine ⟨_, settle_next.mpr ⟨_, compareEffects_ok.mpr ⟨hpc, rfl⟩, rfl⟩, ?_⟩
  exact ⟨rfl, fun q => commit_reg _ _ q, setNzpCmp_eq m n, rfl, fun _ => rfl, rfl⟩

/-- What a compare of `m` with `n` does at each verdict of the straight-line guard. -/
theorem exec_of_compareEffects {i : Instr} {m n : Int} (hi : effectsOf i s = compareEffects s m n) :
    (CodeAddress (s.pc + 1#16) → ∃ t, exec i s = .next t ∧ FlagStep s t (flagsOfOrder m n)) ∧
    (¬ CodeAddress (s.pc + 1#16) →
      exec i s = .fault (.pcInReservedRange (s.pc + 1#16) s.pc)) := by
  rw [exec_eq_settle, hi]
  constructor
  · intro hpc
    exact settle_compareEffects hpc m n
  · intro hpc
    exact settle_fault.mpr (compareEffects_error.mpr ⟨hpc, rfl⟩)

end

/-! ### Two registers (R200, R201) -/

/-- A compare of two registers ignores bits 6:3 (R96, R105); `f` is its sub-operation field. -/
theorem decode_compareRegisters {i : Instr} {a b : Reg} {f : BitVec 2} (hi : i.wf = true)
    (hignored : i.ignoredBits = 0x0078#16)
    (hencode : encode i = 0b0010#4 ++ a.bits ++ f ++ 0b0000#4 ++ b.bits) (x : BitVec 4) :
    decode (0b0010#4 ++ a.bits ++ f ++ x ++ b.bits) = i := by
  have hmask : ~~~i.ignoredBits = 0x1FF#9 ++ 0#4 ++ 7#3 := by rw [hignored]; decide
  refine decode_of_masked_eq hi hmask ?_
  rw [hencode]
  exact masked_append (masked_append rfl (masked_zero x 0#4)) rfl

/-- Settles O17: the comparison of the two registers as signed; bits 6:3 are ignored. -/
theorem cmpComparesSignedRegisters : Obligations.CmpComparesSignedRegisters := by
  intro a b x s
  have heffects : effectsOf (.cmp a b) s =
      compareEffects s (s.reg a).toInt (s.reg b).toInt := rfl
  exact ⟨decode_compareRegisters rfl rfl rfl x, exec_of_compareEffects heffects⟩

/-- Settles O18: the comparison of the two registers as unsigned; bits 6:3 are ignored. -/
theorem cmpuComparesUnsignedRegisters : Obligations.CmpuComparesUnsignedRegisters := by
  intro a b x s
  have heffects : effectsOf (.cmpu a b) s =
      compareEffects s (s.reg a).toNat (s.reg b).toNat := rfl
  exact ⟨decode_compareRegisters rfl rfl rfl x, exec_of_compareEffects heffects⟩

/-! ### A register and an immediate (R202, R203) -/

/-- Sign extension keeps the signed value of a field. -/
theorem toInt_signedImm_toInt {n : Nat} (hn : n ≤ 16) (x : BitVec n) :
    (signedImm x.toInt).toInt = x.toInt := by
  rw [signedImm_toInt, BitVec.toInt_signExtend_of_le hn]

/-- Zero extension keeps the unsigned value of a field. -/
theorem toNat_unsignedImm_toNat {n : Nat} (hn : n ≤ 16) (x : BitVec n) :
    (unsignedImm x.toNat).toNat = x.toNat := by
  rw [unsignedImm, BitVec.ofNat_toNat, BitVec.toNat_setWidth_of_le hn]

/-- Settles O19: the comparison of the register with the field's signed value. -/
theorem cmpiComparesTheSignedImmediate : Obligations.CmpiComparesTheSignedImmediate := by
  intro a imm s
  have hdecode : decode (0b0010#4 ++ a.bits ++ 0b10#2 ++ imm) = .cmpi a imm.toInt :=
    decode_of_eq_encode (fitsSigned_toInt imm) (by rw [encode, BitVec.ofInt_toInt])
  have heffects : effectsOf (.cmpi a imm.toInt) s =
      compareEffects s (s.reg a).toInt (signedImm imm.toInt).toInt := rfl
  rw [toInt_signedImm_toInt (by decide)] at heffects
  exact ⟨hdecode, exec_of_compareEffects heffects⟩

/-- Settles O20: the comparison of the register with the field's unsigned value. -/
theorem cmpiuComparesTheUnsignedImmediate : Obligations.CmpiuComparesTheUnsignedImmediate := by
  intro a u s
  have hdecode : decode (0b0010#4 ++ a.bits ++ 0b11#2 ++ u) = .cmpiu a u.toNat :=
    decode_of_eq_encode (fitsUnsigned_toNat u)
      (by rw [encode, BitVec.ofNat_toNat, BitVec.setWidth_eq])
  have heffects : effectsOf (.cmpiu a u.toNat) s =
      compareEffects s (s.reg a).toNat (unsignedImm u.toNat).toNat := rfl
  rw [toNat_unsignedImm_toNat (by decide)] at heffects
  exact ⟨hdecode, exec_of_compareEffects heffects⟩

end Sys2Proof.Machine
end

section
/-! Load and store (43_load_store.md R210 to R212): both raise the errors of the data check before anything
else, and past it LDR is a register write that advances and STR a store that advances. -/

namespace Sys2Proof.Machine

open Sys2Proof

/-! ### The effective address (R210) -/

/-- The effective address, its offset as the field. -/
theorem effectiveAddress_toInt {n : Nat} (base : Word) (imm : BitVec n) :
    effectiveAddress base imm.toInt = base + imm.signExtend 16 := by
  rw [effectiveAddress, signedImm_toInt]

/-! ### The errors of the data check (R67, R140) -/

section
variable {i : Instr} {s : State} {a : Word}

/-- The data check is the first check of LDR and STR, so its error is theirs. -/
theorem exec_of_checkData_error {f : Fault} (hi : dataAddress s i = some a)
    (h : checkData s a = .error f) : exec i s = .fault f := by
  rw [exec_eq_settle]
  refine settle_fault.mpr ?_
  cases i
  case ldr => cases hi; rw [effectsOf, ldrEffects, h]
  case str => cases hi; rw [effectsOf, strEffects, h]
  all_goals cases hi

theorem exec_of_privilege (hi : dataAddress s i = some a) (ha : OsAddress a)
    (hm : s.psr.mode = .user) : exec i s = .fault (.invalidMemoryAccess true s.pc) :=
  exec_of_checkData_error hi (checkData_privilege ha hm)

theorem exec_of_structural (hi : dataAddress s i = some a)
    (hc : s.cfg.userCodeDataFault = true) (ha : a.toNat < 0x2000) :
    exec i s = .fault (.invalidMemoryAccess false s.pc) :=
  exec_of_checkData_error hi (checkData_structural hc ha)

end

/-! ### Past the data check (R142, R145) -/

section
variable {s : State} {b : Reg} {imm : Int}

/-- An allowed load is the register write of the loaded word and of its flags. -/
theorem ldrEffects_of_dataAllowed (d : Reg) (hd : DataAllowed s (effectiveAddress (s.reg b) imm)) :
    effectsOf (.ldr d b imm) s =
      aluEffects s d (s.mem.readWord (effectiveAddress (s.reg b) imm)) := by
  rw [effectsOf, ldrEffects, checkData_ok hd]

/-- An allowed store that advances, whole: its completion, the stored word and its frame. -/
theorem exec_str_next (a : Reg) (hd : DataAllowed s (effectiveAddress (s.reg b) imm))
    (hpc : CodeAddress (s.pc + 1#16)) :
    ∃ t, exec (.str a b imm) s = .next t ∧
      StoreStep s t (effectiveAddress (s.reg b) imm) (s.reg a) := by
  refine ⟨_, settle_next.mpr ⟨_, strEffects_ok.mpr ⟨hd, hpc, rfl⟩, rfl⟩, ?_⟩
  exact {
    pc := rfl
    regs := fun q => commit_reg _ _ q
    psr := rfl
    stored := by rw [commit_mem, Memory.readWord_writeWord, if_pos rfl]
    memory := fun k hhigh hlow => by
      rw [commit_mem, Memory.readByte_writeWord, if_neg hlow, if_neg hhigh]
    config := rfl }

theorem exec_str_of_not_codeAddress (a : Reg)
    (hd : DataAllowed s (effectiveAddress (s.reg b) imm)) (hpc : ¬ CodeAddress (s.pc + 1#16)) :
    exec (.str a b imm) s = .fault (.pcInReservedRange (s.pc + 1#16) s.pc) := by
  rw [exec_eq_settle, effectsOf, strEffects, checkData_ok hd, advance_error hpc, settle]

end

/-! ### LDR and STR (R211, R212) -/

/-- Settles O21: the errors of the data check, and past it the register write of the loaded word. -/
theorem ldrLoadsTheAddressedWord : Obligations.LdrLoadsTheAddressedWord := by
  intro d b imm s
  have hdecode : decode (0b0110#4 ++ d.bits ++ b.bits ++ imm) = .ldr d b imm.toInt :=
    decode_of_eq_encode (fitsSigned_toInt imm) (by rw [encode, BitVec.ofInt_toInt])
  refine ⟨hdecode, effectiveAddress_toInt _ imm, ?_⟩
  rintro ea rfl
  have hload (hd : DataAllowed s (effectiveAddress (s.reg b) imm.toInt)) :=
    exec_of_aluEffects (ldrEffects_of_dataAllowed d hd) _ rfl
  exact ⟨fun hd => (hload hd).1, exec_of_privilege rfl, exec_of_structural rfl,
    fun hd => (hload hd).2⟩

/-- Settles O22: the errors of the data check, and past it the store of the register. -/
theorem strStoresOneWord : Obligations.StrStoresOneWord := by
  intro a b imm s
  have hdecode : decode (0b0111#4 ++ a.bits ++ b.bits ++ imm) = .str a b imm.toInt :=
    decode_of_eq_encode (fitsSigned_toInt imm) (by rw [encode, BitVec.ofInt_toInt])
  refine ⟨hdecode, effectiveAddress_toInt _ imm, ?_⟩
  rintro ea rfl
  exact ⟨exec_str_next a, exec_of_privilege rfl, exec_of_structural rfl,
    exec_str_of_not_codeAddress a⟩

end Sys2Proof.Machine
end

section
/-! Control transfers (44_control.md R220 to R226): a taken branch, JMP and JMPR are one kind of step, JSR and
JSRR another, so each kind's completion, frame and only error are said once. -/

namespace Sys2Proof.Machine

open Sys2Proof

section
variable {i : Instr} {s : State} {t : Word}

/-! ### Steps that write nothing but pc (R143, R145) -/

/-- Effects without a write, whole: the completion and the frame. -/
theorem settle_pcOnly (s : State) (t : Word) :
    ∃ u, settle s (.ok { reg := none, flags := none, mem := none, mode := none, pc := t }) = .next u ∧
      JumpStep s u t :=
  ⟨_, rfl, { pc := rfl, regs := commit_reg s _, psr := rfl, memory := fun _ => rfl, config := rfl }⟩

/-- What a jump to `t` does at each verdict of the target check. -/
theorem exec_of_jumpEffects (hi : effectsOf i s = jumpEffects s t) :
    (CodeAddress t → ∃ u, exec i s = .next u ∧ JumpStep s u t) ∧
    (¬ CodeAddress t → exec i s = .fault (.invalidJump t s.pc)) := by
  rw [exec_eq_settle, hi]
  constructor
  · intro ht
    rw [jumpEffects_ok.mpr ⟨ht, rfl⟩]
    exact settle_pcOnly s t
  · intro ht
    exact settle_fault.mpr (jumpEffects_error.mpr ⟨ht, rfl⟩)

/-! ### Branches (R220, R221) -/

section
variable {c : BitVec 3} {off : Int}

/-- A taken branch is a jump to its relative target. -/
theorem exec_of_branchTaken (hi : effectsOf i s = branchEffects s (selectedFlags c) off)
    (hc : BranchCondition c s.psr.nzp) :
    (CodeAddress (relativeTarget s.pc off) →
      ∃ u, exec i s = .next u ∧ JumpStep s u (relativeTarget s.pc off)) ∧
    (¬ CodeAddress (relativeTarget s.pc off) →
      exec i s = .fault (.invalidJump (relativeTarget s.pc off) s.pc)) :=
  exec_of_jumpEffects (hi.trans (branchEffects_taken (branchTaken_selectedFlags.mpr hc)))

/-- A branch that is not taken advances, so its error is that of the straight-line guard. -/
theorem exec_of_branchNotTaken (hi : effectsOf i s = branchEffects s (selectedFlags c) off)
    (hc : ¬ BranchCondition c s.psr.nzp) :
    (CodeAddress (s.pc + 1#16) → ∃ u, exec i s = .next u ∧ JumpStep s u (s.pc + 1#16)) ∧
    (¬ CodeAddress (s.pc + 1#16) →
      exec i s = .fault (.pcInReservedRange (s.pc + 1#16) s.pc)) := by
  have hnot : branchTaken (selectedFlags c) s.psr.nzp = false :=
    Bool.eq_false_of_not_eq_true (mt branchTaken_selectedFlags.mp hc)
  rw [exec_eq_settle, hi]
  constructor
  · intro hpc
    rw [(branchEffects_notTaken_ok hnot).mpr ⟨hpc, rfl⟩]
    exact settle_pcOnly s _
  · intro hpc
    exact settle_fault.mpr ((branchEffects_notTaken_error hnot).mpr ⟨hpc, rfl⟩)

end

/-! ### Steps that link (R32, R225, R226) -/

/-- A link write with a control transfer, whole: the completion, the link, the flags and the frame; `m` is
what the step writes to PSR.PRIV. -/
theorem settle_link (s : State) (t : Word) (m : Option Mode) :
    ∃ u, settle s (.ok { reg := some (.r7, s.pc + 1#16), flags := linkFlags s.cfg (s.pc + 1#16),
                         mem := none, mode := m, pc := t }) = .next u ∧
      LinkStep s u t (m.getD s.psr.mode) :=
  ⟨_, rfl, { pc := rfl, regs := commit_reg s _, flags := linkFlags_getD _ _ _, mode := rfl,
             memory := fun _ => rfl, config := rfl }⟩

/-- What a call of `t` does at each verdict of the target check. -/
theorem exec_of_callEffects (hi : effectsOf i s = callEffects s t) :
    (CodeAddress t → ∃ u, exec i s = .next u ∧ LinkStep s u t s.psr.mode) ∧
    (¬ CodeAddress t → exec i s = .fault (.invalidJump t s.pc)) := by
  rw [exec_eq_settle, hi]
  constructor
  · intro ht
    rw [callEffects_ok.mpr ⟨ht, rfl⟩]
    exact settle_link s t none
  · intro ht
    exact settle_fault.mpr (callEffects_error.mpr ⟨ht, rfl⟩)

end

/-! ### Words and targets -/

/-- A call or jump through a register ignores bits 10:9 and 5:0 (R97, R105). -/
theorem decode_callRegister {i : Instr} {o : BitVec 4} {a : Reg} (hi : i.wf = true)
    (hignored : i.ignoredBits = 0x063F#16)
    (hencode : encode i = o ++ 0b0#1 ++ 0b00#2 ++ a.bits ++ 0b000000#6) (x : BitVec 2)
    (y : BitVec 6) : decode (o ++ 0b0#1 ++ x ++ a.bits ++ y) = i := by
  have hmask : ~~~i.ignoredBits = 0x1F#5 ++ 0#2 ++ 7#3 ++ 0#6 := by rw [hignored]; decide
  refine decode_of_masked_eq hi hmask ?_
  rw [hencode]
  exact masked_append (masked_append (masked_append rfl (masked_zero x 0#2)) rfl) (masked_zero y 0#6)

/-- The relative target, its offset as the field. -/
theorem relativeTarget_toInt {n : Nat} (pc : Word) (imm : BitVec n) :
    relativeTarget pc imm.toInt = pc + 1#16 + imm.signExtend 16 := by
  rw [relativeTarget, signedImm_toInt]

/-- The eight variants of BR with offset `off`, each with its condition field (R94). -/
def branchVariants (off : Int) : List (Instr × BitVec 3) :=
  [(.nop off, 0b000#3), (.brp off, 0b001#3), (.brz off, 0b010#3), (.brzp off, 0b011#3),
    (.brn off, 0b100#3), (.brnp off, 0b101#3), (.brnz off, 0b110#3), (.brnzp off, 0b111#3)]

/-- The variants differ in their condition field alone. -/
theorem branchVariants_fields {off : Int} {i : Instr} {c : BitVec 3}
    (hi : (i, c) ∈ branchVariants off) (s : State) :
    i.wf = fitsSigned 9 off ∧ encode i = 0b0000#4 ++ c ++ BitVec.ofInt 9 off ∧
      effectsOf i s = branchEffects s (selectedFlags c) off := by
  simp only [branchVariants, List.mem_cons, List.not_mem_nil, or_false, Prod.mk.injEq] at hi
  obtain ⟨rfl, rfl⟩ | ⟨rfl, rfl⟩ | ⟨rfl, rfl⟩ | ⟨rfl, rfl⟩ | ⟨rfl, rfl⟩ | ⟨rfl, rfl⟩ | ⟨rfl, rfl⟩ |
    ⟨rfl, rfl⟩ := hi <;> exact ⟨rfl, rfl, rfl⟩

/-! ### The instructions -/

/-- Settles O23: the condition field of the variant decides between the jump and the advance. -/
theorem branchesFollowTheirCondition : Obligations.BranchesFollowTheirCondition := by
  rintro imm s ⟨i, c⟩ hi
  obtain ⟨hwf, hencode, heffects⟩ := branchVariants_fields hi s
  have hfits := hwf.trans (fitsSigned_toInt imm)
  refine ⟨decode_of_eq_encode hfits (by rw [hencode, BitVec.ofInt_toInt]), ?_⟩
  rintro target rfl
  rw [← relativeTarget_toInt]
  exact ⟨fun hc => (exec_of_branchTaken heffects hc).1, fun hc => (exec_of_branchTaken heffects hc).2,
    fun hc => (exec_of_branchNotTaken heffects hc).1,
    fun hc => (exec_of_branchNotTaken heffects hc).2⟩

/-- Settles O24: the jump to the relative target. -/
theorem jmpGoesToItsRelativeTarget : Obligations.JmpGoesToItsRelativeTarget := by
  intro imm s
  refine ⟨decode_of_eq_encode (fitsSigned_toInt imm) (by rw [encode, BitVec.ofInt_toInt]), ?_⟩
  rintro target rfl
  rw [← relativeTarget_toInt]
  exact exec_of_jumpEffects rfl

/-- Settles O25: the jump to the register; bits 10:9 and 5:0 are ignored. -/
theorem jmprGoesToItsRegister : Obligations.JmprGoesToItsRegister := by
  intro a x y s
  have heffects : effectsOf (.jmpr a) s = jumpEffects s (s.reg a) := rfl
  exact ⟨decode_callRegister rfl rfl rfl x y, exec_of_jumpEffects heffects⟩

/-- Settles O26: the call of the target that `JSR_TARGET` selects. -/
theorem jsrLinksAndGoesToItsTarget : Obligations.JsrLinksAndGoesToItsTarget := by
  intro raw s
  have heffects : effectsOf (.jsr raw) s = callEffects s (jsrTarget s.cfg s.pc raw) := rfl
  refine ⟨decode_encode (i := .jsr raw) rfl, ?_⟩
  rintro target rfl
  exact exec_of_callEffects heffects

/-- Settles O27: the call of the register's value, which is read in the state before the link write; bits 10:9
and 5:0 are ignored. -/
theorem jsrrLinksAndGoesToItsRegister : Obligations.JsrrLinksAndGoesToItsRegister := by
  intro a x y s
  have heffects : effectsOf (.jsrr a) s = callEffects s (s.reg a) := rfl
  exact ⟨decode_callRegister rfl rfl rfl x y, exec_of_callEffects heffects⟩

end Sys2Proof.Machine
end

section
/-! The system instructions (45_system.md R240, R241): trap entry is a link step into OS mode and never fails, trap
return is a jump through R7 into user mode, and the return after an entry (R257, R258) is these two in turn. -/

namespace Sys2Proof.Machine

open Sys2Proof

/-! ### Words with ignored bits (R105) -/

/-- TRAP ignores bits 11:8 (R240). -/
theorem decode_trap (x : BitVec 4) (v : BitVec 8) : decode (0b1111#4 ++ x ++ v) = .trap v.toNat := by
  have hmask : ~~~0x0F00#16 = 0xF#4 ++ 0#4 ++ 0xFF#8 := by decide
  refine decode_of_masked_eq (fitsUnsigned_toNat v) hmask ?_
  rw [encode, BitVec.ofNat_toNat, BitVec.setWidth_eq]
  exact masked_append (masked_append rfl (masked_zero x 0#4)) rfl

/-- RTI ignores bits 11:0 (R241). -/
theorem decode_rti (x : BitVec 12) : decode (0b1000#4 ++ x) = .rti := by
  have hmask : ~~~0x0FFF#16 = 0xF#4 ++ 0#12 := by decide
  exact decode_of_masked_eq rfl hmask (masked_append rfl (masked_zero x 0#12))

/-! ### The entry and the return -/

/-- The entry word of R240, its vector as the field. -/
theorem trapTarget_field (v : BitVec 8) :
    trapTarget v.toNat = 0x8000#16 ||| v.setWidth 16 := by
  rw [trapTarget, BitVec.ofNat_toNat, BitVec.setWidth_eq, BitVec.zeroExtend_eq_setWidth]
  rfl

/-- TRAP completes from every state: its target is a code address whatever the vector. -/
theorem exec_trap_next (v : Nat) (s : State) :
    ∃ t, exec (.trap v) s = .next t ∧ LinkStep s t (trapTarget v) .os := by
  have heffects : effectsOf (.trap v) s = trapEntry s v := rfl
  rw [exec_eq_settle, heffects, trapEntry_eq]
  exact settle_link s (trapTarget v) (some .os)

section
variable {s : State}

/-- RTI completes where R7 holds a code address. -/
theorem exec_rti_next (h : CodeAddress (s.reg .r7)) :
    ∃ t, exec .rti s = .next t ∧ ReturnStep s t := by
  have heffects : effectsOf .rti s = trapReturn s := rfl
  rw [exec_eq_settle, heffects, trapReturn_ok.mpr ⟨h, rfl⟩]
  exact ⟨_, rfl, { pc := rfl, regs := commit_reg s _, flags := rfl, mode := rfl,
                   memory := fun _ => rfl, config := rfl }⟩

/-- The only error of RTI. -/
theorem exec_rti_fault (h : ¬ CodeAddress (s.reg .r7)) :
    exec .rti s = .fault (.invalidJump (s.reg .r7) s.pc) := by
  have heffects : effectsOf .rti s = trapReturn s := rfl
  rw [exec_eq_settle, heffects]
  exact settle_fault.mpr (trapReturn_error.mpr ⟨h, rfl⟩)

end

/-! ### A link and its return -/

section
variable {s t u : State} {target : Word} {m : Mode}

/-- A link leaves the address after it in R7. -/
theorem LinkStep.reg_link (h : LinkStep s t target m) : t.reg .r7 = s.pc + 1#16 := by
  rw [h.regs, if_pos rfl]

/-- A return after a link goes to the word after it, and what the two change together is the link register. -/
theorem LinkStep.followedByReturn (hlink : LinkStep s t target m) (hreturn : ReturnStep t u) :
    u.pc = s.pc + 1#16 ∧ u.psr.mode = .user ∧ OnlyRegister s u .r7 (s.pc + 1#16) ∧
      SameMemory s u :=
  ⟨hreturn.pc.trans hlink.reg_link, hreturn.mode,
    fun q => (hreturn.regs q).trans (hlink.regs q),
    fun k => (hreturn.memory k).trans (hlink.memory k)⟩

end

/-! ### The instructions -/

/-- Settles O55: RTI after TRAP finds in R7 the address after the TRAP, which is a code address. -/
theorem trapThenRtiReturns : Obligations.TrapThenRtiReturns := by
  intro v s hpc
  obtain ⟨t, htrap, hlink⟩ := exec_trap_next v s
  have hcode : CodeAddress (t.reg .r7) := by rwa [hlink.reg_link]
  obtain ⟨u, hrti, hreturn⟩ := exec_rti_next hcode
  exact ⟨t, u, htrap, hrti, hlink.followedByReturn hreturn⟩

/-- Settles O28: the entry at the vector's word; bits 11:8 are ignored. -/
theorem trapEntersItsVectorInOsMode : Obligations.TrapEntersItsVectorInOsMode := by
  intro v x s
  rw [← trapTarget_field]
  exact ⟨decode_trap x v, exec_trap_next v.toNat s⟩

/-- Settles O29: the return at each verdict of the target check; bits 11:0 are ignored. -/
theorem rtiReturnsThroughR7InUserMode : Obligations.RtiReturnsThroughR7InUserMode :=
  fun x _ => ⟨decode_rti x, exec_rti_next, exec_rti_fault⟩

end Sys2Proof.Machine
end

section
/-! The mode (R261 to R263): which instructions write it, and the data check as the one operation that reads it.
So the effects of an instruction that reaches no OS address are those of both modes. -/

namespace Sys2Proof.Machine

open Sys2Proof

/-! ### What writes the mode (R262) -/

theorem modeWritten_eq_none {i : Instr} (htrap : ∀ v, i ≠ .trap v) (hrti : i ≠ .rti) :
    modeWritten i = none := by
  unfold modeWritten
  split
  · next v => exact absurd rfl (htrap v)
  · exact absurd rfl hrti
  · rfl

theorem commit_mode_eq_modeWritten {i : Instr} {s : State} {e : Effects} (he : EffectsShape i s e) :
    (commit s e).psr.mode = (modeWritten i).getD s.psr.mode := by
  rw [commit_mode, he.mode]

/-- Settles O41: a step leaves the mode that its instruction writes, which only TRAP and RTI do. -/
theorem onlyTrapRtiAndResetChangeTheMode : Obligations.OnlyTrapRtiAndResetChangeTheMode := by
  refine ⟨fun s t h => ?step, fun _ => rfl, fun _ _ _ => rfl⟩
  obtain ⟨-, e, -, rfl, he⟩ := step_next_shape h
  have hmode := commit_mode_eq_modeWritten he
  refine ⟨?trap, fun hrti => ?rti, fun htrap hrti => ?other⟩
  case trap => rintro ⟨v, hv⟩; rw [hmode, hv]; rfl
  case rti => rw [hmode, hrti]; rfl
  case other => rw [hmode, modeWritten_eq_none htrap hrti, Option.getD_none]

/-! ### What reads the mode (R263) -/

section
variable {i : Instr} {s : State} {m : Mode}

@[simp] theorem dataAddress_withMode : dataAddress (s.withMode m) i = dataAddress s i := by
  cases i <;> rfl

/-- Below 0x8000 the data check does not ask for the mode (R67). -/
theorem checkData_withMode {a : Word} (ha : ¬ OsAddress a) :
    checkData (s.withMode m) a = checkData s a := by
  by_cases hlow : a.toNat < 0x2000
  · rw [checkData_userCode hlow, checkData_userCode hlow]; rfl
  · rw [checkData_userData (by omega) (by omega), checkData_userData (by omega) (by omega)]

/-- The effects of an instruction that accesses no OS address are the same in both modes: LDR and STR ask
for the mode in their data check only, and no other instruction asks for it. -/
theorem effectsOf_withMode (h : ∀ a, dataAddress s i = some a → ¬ OsAddress a) :
    effectsOf i (s.withMode m) = effectsOf i s := by
  cases i
  case ldr =>
    simp only [effectsOf, ldrEffects, withMode_reg, withMode_mem, checkData_withMode (h _ rfl)]
    rfl
  case str =>
    simp only [effectsOf, strEffects, withMode_reg, checkData_withMode (h _ rfl)]
    rfl
  all_goals rfl

theorem exec_withMode (h : ∀ a, dataAddress s i = some a → ¬ OsAddress a) :
    exec i (s.withMode m) = settle (s.withMode m) (effectsOf i s) := by
  rw [exec_eq_settle, effectsOf_withMode h]

/-- In OS mode the data check lets every OS address pass (R67). -/
theorem exec_os_no_memoryFault {a : Word} (hm : s.psr.mode = .os) (hi : dataAddress s i = some a)
    (ha : OsAddress a) (l : Bool) (p : Word) : exec i s ≠ .fault (.invalidMemoryAccess l p) := by
  intro h
  cases exec_errorCause h with
  | privilege _ _ huser => cases hm.symm.trans huser
  | structural hi' hlow _ => cases hi.symm.trans hi'; omega

end

/-- Committing one record in two modes gives states that differ at most in the mode. -/
theorem commit_withMode_withMode (s : State) (m m' : Mode) (e : Effects) :
    (commit (s.withMode m') e).withMode (commit (s.withMode m) e).psr.mode =
      commit (s.withMode m) e := rfl

/-- Settles O42: at an OS address the data check decides by the mode; elsewhere both runs settle one effects
record. -/
theorem modeMattersOnlyForOsData : Obligations.ModeMattersOnlyForOsData := by
  intro i s
  refine ⟨fun a hi ha => ⟨?userFault, ?osNoFault⟩, fun h => ⟨fun f => ?sameError, fun t ht => ?sameNext⟩⟩
  case userFault => exact exec_of_privilege (dataAddress_withMode.trans hi) ha rfl
  case osNoFault => exact exec_os_no_memoryFault rfl (dataAddress_withMode.trans hi) ha
  case sameError => rw [exec_withMode h, exec_withMode h, settle_fault, settle_fault]
  case sameNext =>
    rw [exec_withMode h, settle_next] at ht
    obtain ⟨e, he, rfl⟩ := ht
    refine ⟨commit (s.withMode .os) e, ?_, commit_withMode_withMode s .user .os e⟩
    rw [exec_withMode h, settle_next]
    exact ⟨e, he, rfl⟩

end Sys2Proof.Machine
end

section
/-! The trace record (R270): it exists exactly for a step that goes on, and each of its parts tells what
committing the step's effects record does to that part of the state. -/

namespace Sys2Proof.Machine

open Sys2Proof

/-! ### When there is a record -/

theorem stepTrace_of_fault {s : State} {f : Fault} (h : step s = .fault f) : stepTrace s = none := by
  unfold step at h
  unfold stepTrace
  cases hfetch : fetch s with
  | error g => rfl
  | ok i =>
    rw [hfetch] at h
    have heffects : effectsOf i s = .error f := settle_fault.mp ((exec_eq_settle i s).symm.trans h)
    simp only [heffects]

theorem stepTrace_of_effects {s : State} {e : Effects} (hpc : CodeAddress s.pc)
    (he : effectsOf (decode (s.mem.readWord s.pc)) s = .ok e) :
    stepTrace s = some (traceRecord s (decode (s.mem.readWord s.pc)) e) := by
  have hfetch : fetch s = .ok (decode (s.mem.readWord s.pc)) := fetch_ok.mpr ⟨hpc, rfl⟩
  unfold stepTrace
  simp only [hfetch, he]

/-! ### What an instruction touches -/

section
variable {i : Instr} {s : State} {e : Effects}

/-- The address of a data access, and the word that stands there after the step: the loaded word, which a load
leaves, or the stored word. -/
theorem touched_eq_commit (h : effectsOf i s = .ok e) :
    touched s i = (dataAddress s i).map fun a => (a, (commit s e).mem.readWord a) := by
  cases i
  case ldr =>
    obtain ⟨-, -, rfl⟩ := ldrEffects_ok.mp h
    rfl
  case str =>
    obtain ⟨-, -, rfl⟩ := strEffects_ok.mp h
    rw [dataAddress, Option.map_some, commit_mem_of_some rfl, Memory.readWord_writeWord, if_pos rfl]
    rfl
  all_goals rfl

/-- What is stored is touched. -/
theorem touched_of_stored (h : effectsOf i s = .ok e) {w : Word × Word} (hw : e.mem = some w) :
    touched s i = some w := by
  obtain ⟨a, v⟩ := w
  have hstore : storeAddress s i = some a := by rw [← (effects_shape h).mem, hw, Option.map_some]
  rw [touched_eq_commit h, dataAddress_of_storeAddress hstore, Option.map_some,
    commit_mem_of_some hw, Memory.readWord_writeWord, if_pos rfl]

/-! ### The enable bits -/

theorem traceRecord_weFlags (he : EffectsShape i s e) :
    (traceRecord s i e).weFlags = writesFlags s.cfg i := he.flags

theorem traceRecord_weReg (he : EffectsShape i s e) :
    (traceRecord s i e).weReg = (destination i).isSome := by
  rw [← he.reg, Option.isSome_map]; rfl

theorem traceRecord_weMem (he : EffectsShape i s e) :
    (traceRecord s i e).weMem = (storeAddress s i).isSome := by
  rw [← he.mem, Option.isSome_map]; rfl

/-! ### The register and the flags -/

theorem commit_reg_eq_traceRecord (i : Instr) (s : State) (e : Effects) (q : Reg) :
    (commit s e).reg q =
      if (traceRecord s i e).weReg = true ∧ q.bits = (traceRecord s i e).regIndex then
        (traceRecord s i e).regValue
      else s.reg q := by
  cases h : e.reg <;> simp [commit_reg, traceRecord, h, Reg.bits_inj]

theorem traceRecord_reg_absent (h : (traceRecord s i e).weReg = false) :
    (traceRecord s i e).regIndex = 0#3 ∧ (traceRecord s i e).regValue = 0#16 := by
  have hnone : e.reg = none := Option.isNone_iff_eq_none.mp (Option.isSome_eq_false_iff.mp h)
  simp [traceRecord, hnone]

theorem commit_nzp_eq_traceRecord (i : Instr) (s : State) (e : Effects) :
    (commit s e).psr.nzp.bits =
      if (traceRecord s i e).weFlags = true then (traceRecord s i e).nzp else s.psr.nzp.bits := by
  cases h : e.flags <;> simp [traceRecord, h]

theorem traceRecord_nzp_absent (h : (traceRecord s i e).weFlags = false) :
    (traceRecord s i e).nzp = 0#3 := by
  have hnone : e.flags = none := Option.isNone_iff_eq_none.mp (Option.isSome_eq_false_iff.mp h)
  simp [traceRecord, hnone]

/-! ### Memory -/

theorem traceRecord_mem_of_touched {a v : Word} (h : touched s i = some (a, v)) :
    (traceRecord s i e).memAddr = a ∧ (traceRecord s i e).memValue = v := by
  simp [traceRecord, h]

theorem traceRecord_mem_absent (h : touched s i = none) :
    (traceRecord s i e).memAddr = 0#16 ∧ (traceRecord s i e).memValue = 0#16 := by
  simp [traceRecord, h]

theorem commit_readWord_eq_traceRecord (h : effectsOf i s = .ok e) (a : Word) :
    (commit s e).mem.readWord a =
      if (traceRecord s i e).weMem = true ∧ a = (traceRecord s i e).memAddr then
        (traceRecord s i e).memValue
      else s.mem.readWord a := by
  cases hw : e.mem with
  | none => simp [commit_mem_of_none hw, traceRecord, hw]
  | some w =>
    obtain ⟨haddr, hvalue⟩ := traceRecord_mem_of_touched (e := e) (touched_of_stored h hw)
    have hwe : (traceRecord s i e).weMem = true := by rw [traceRecord, hw, Option.isSome_some]
    rw [commit_mem_of_some hw, Memory.readWord_writeWord, haddr, hvalue]
    simp only [hwe, true_and]

end

/-- Settles O60: the step and its record come from one effects record, whose parts `commit` writes and the
record tells. -/
theorem traceRecordsWhatTheStepWrote : Obligations.TraceRecordsWhatTheStepWrote := by
  refine fun s => ⟨fun f => stepTrace_of_fault, fun t ht => ?record⟩
  obtain ⟨hpc, e, heffects, rfl, hshape⟩ := step_next_shape ht
  have htouched := touched_eq_commit heffects
  refine ⟨_, stepTrace_of_effects hpc heffects, rfl, rfl, traceRecord_weFlags hshape,
    traceRecord_weReg hshape, traceRecord_weMem hshape, commit_reg_eq_traceRecord _ s e,
    traceRecord_reg_absent, commit_nzp_eq_traceRecord _ s e, traceRecord_nzp_absent,
    commit_readWord_eq_traceRecord heffects, fun a ha => ?access, fun hnone => ?noAccess⟩
  case access => exact traceRecord_mem_of_touched (by rw [htouched, ha, Option.map_some])
  case noAccess => exact traceRecord_mem_absent (by rw [htouched, hnone, Option.map_none])

end Sys2Proof.Machine
end

section
/-! The self-loop (R269): BRnzp #-1 is a step from its state to itself. -/

namespace Sys2Proof.Machine

open Sys2Proof

/-- A state that steps to itself stays for any number of steps. -/
theorem run_of_step_self {s : State} (h : step s = .next s) (k : Nat) :
    Sys2Proof.core.run k s = .next s := by
  have hcore : Sys2Proof.core.step s = .next s := h
  induction k with
  | zero => rfl
  | succ k ih => simp only [Host.Core.run, hcore, ih]

theorem decode_selfLoop : decode 0x0FFF#16 = .brnzp (-1) := by decide

/-- Offset -1 takes back the advance. -/
theorem relativeTarget_neg_one (pc : Word) : relativeTarget pc (-1) = pc := by
  unfold relativeTarget signedImm
  bv_omega

/-- With a flag set, the condition field 111 is met (R220). -/
theorem branchCondition_all {f : Nzp} (hf : OneHot f) : BranchCondition 0b111#3 f := by
  obtain rfl | rfl | rfl := hf <;> decide

theorem exec_selfLoop {s : State} (hpc : CodeAddress s.pc) (hf : OneHot s.psr.nzp) :
    exec (.brnzp (-1)) s = .next s := by
  have heffects : effectsOf (.brnzp (-1)) s = branchEffects s (selectedFlags 0b111#3) (-1) := rfl
  have htaken : branchTaken (selectedFlags 0b111#3) s.psr.nzp = true :=
    branchTaken_selectedFlags.mpr (branchCondition_all hf)
  rw [exec_eq_settle, heffects, branchEffects_taken htaken, relativeTarget_neg_one,
    jumpEffects_ok.mpr ⟨hpc, rfl⟩]
  rfl

/-- Settles O56: the loop's step ends in the state it began in, so any number of steps does. -/
theorem selfLoopStaysForever : Obligations.SelfLoopStaysForever := by
  intro s k hpc hf hword
  refine run_of_step_self ?_ k
  rw [step_eq_exec hpc (hword ▸ decode_selfLoop), exec_selfLoop hpc hf]

end Sys2Proof.Machine
end

section
/-! Loading (R296 to R298): the object bytes that are read as a Code or Data record, the memory such a record
leaves, and what no load changes, since every load is a run of host writes. -/

namespace Sys2Proof.Machine

open Sys2Proof

/-! ### Loading as host writes (R296) -/

section
variable {P : State → Prop} (hwrite : ∀ s a v, P s → P (hostWrite s a v))
include hwrite

theorem loadWords_keeps (ws : List Word) {s : State} (address : Word) (hs : P s) :
    P (loadWords s address ws) := by
  induction ws generalizing s address with
  | nil => exact hs
  | cons w ws ih => exact ih _ (hwrite _ _ _ hs)

theorem applyRecord_keeps {s : State} (r : ObjRecord) (hs : P s) : P (applyRecord s r) := by
  cases r with
  | code address ws => exact loadWords_keeps hwrite ws address hs
  | data address ws => exact loadWords_keeps hwrite ws address hs
  | symbol | file | line => exact hs

/-- A load is a run of host writes, whether or not it ends in an error: what they keep, it keeps. -/
theorem loadRecords_keeps (fuel offset : Nat) (bytes : List Byte) {s : State} (hs : P s) :
    P (loadRecords fuel offset bytes s).1 := by
  induction fuel generalizing offset bytes s with
  | zero => exact hs
  | succ fuel ih =>
    cases bytes with
    | nil => exact hs
    | cons b bs =>
      rw [loadRecords]
      cases takeRecord (b :: bs) with
      | error k => exact hs
      | ok p => exact ih _ _ (applyRecord_keeps hwrite p.1 hs)

theorem load_keeps (bytes : List Byte) {s : State} (hs : P s) : P (load bytes s).1 :=
  loadRecords_keeps hwrite _ _ _ hs

end

/-- Settles O59: a host write changes nothing but memory, whose canonical form it keeps, and a load is a run
of host writes. -/
theorem loadingTouchesOnlyMemory : Obligations.LoadingTouchesOnlyMemory := fun bytes s =>
  ⟨load_keeps (P := fun t => t.pc = s.pc) (fun _ _ _ h => h) bytes rfl,
    load_keeps (P := fun t => t.psr = s.psr) (fun _ _ _ h => h) bytes rfl,
    load_keeps (P := fun t => t.regs = s.regs) (fun _ _ _ h => h) bytes rfl,
    load_keeps (P := fun t => t.cfg = s.cfg) (fun _ _ _ h => h) bytes rfl,
    load_keeps (P := State.Inv) (fun _ a v h => hostWrite_inv h a v) bytes⟩

/-! ### The words of an image (R296) -/

/-- The next address of an image, counted from its second word and from its first. -/
theorem address_succ (address : Word) (i : Nat) :
    address + 1 + BitVec.ofNat 16 i = address + BitVec.ofNat 16 (i + 1) := by
  bv_omega

/-- Loading leaves a word that no word of the image is written to. -/
theorem loadWords_readWord_of_ne (ws : List Word) (s : State) (address : Word) {a : Word}
    (ha : ∀ i < ws.length, address + BitVec.ofNat 16 i ≠ a) :
    (loadWords s address ws).mem.readWord a = s.mem.readWord a := by
  induction ws generalizing s address with
  | nil => rfl
  | cons w ws ih =>
    have hhead : a ≠ address := by simpa using (ha 0 (Nat.zero_lt_succ _)).symm
    have htail : ∀ i < ws.length, address + 1 + BitVec.ofNat 16 i ≠ a := fun i hi => by
      rw [address_succ]
      exact ha (i + 1) (Nat.succ_lt_succ hi)
    rw [loadWords, ih _ _ htail, hostWrite_mem, Memory.readWord_writeWord, if_neg hhead]

/-- An image of at most 65536 words stands in memory as it was loaded: no later word of it is written over
an earlier one. -/
theorem loadWords_readWord (ws : List Word) (s : State) (address : Word) (hlen : ws.length ≤ 65536)
    (i : Nat) (hi : i < ws.length) :
    (loadWords s address ws).mem.readWord (address + BitVec.ofNat 16 i) = ws[i] := by
  induction ws generalizing s address i with
  | nil => exact absurd hi (Nat.not_lt_zero i)
  | cons w ws ih =>
    rw [List.length_cons] at hlen hi
    rw [loadWords]
    cases i with
    | zero =>
      have hlater : ∀ j < ws.length, address + 1 + BitVec.ofNat 16 j ≠ address := by
        intro j hj
        bv_omega
      have hfirst : address + BitVec.ofNat 16 0 = address := BitVec.add_zero address
      rw [hfirst, loadWords_readWord_of_ne _ _ _ hlater, hostWrite_mem, Memory.readWord_writeWord,
        if_pos rfl, List.getElem_cons_zero]
    | succ i =>
      rw [← address_succ, ih _ _ (by omega) i (by omega), List.getElem_cons_succ]

/-! ### The bytes of a record (R297) -/

/-- The big-endian bytes of words. -/
def objectBytes (ws : List Word) : List Byte := ws.flatMap (fun w => [highByte w, lowByte w])

theorem objectBytes_cons (w : Word) (ws : List Word) :
    objectBytes (w :: ws) = highByte w :: lowByte w :: objectBytes ws := rfl

theorem takeWord_objectBytes (w : Word) (ws : List Word) :
    takeWord (objectBytes (w :: ws)) = .ok (w, objectBytes ws) := by
  rw [objectBytes_cons, takeWord, wordOfBytes_bytes]

theorem takeWords_objectBytes (ws : List Word) :
    takeWords ws.length (objectBytes ws) = .ok (ws, []) := by
  induction ws with
  | nil => rfl
  | cons w ws ih => simp only [List.length_cons, takeWords, takeWord_objectBytes, ih]

section
variable {address : Word} {ws : List Word}
variable (hlen : ws.length < 65536) (hfit : address.toNat + ws.length ≤ 65536)
include hlen hfit

theorem takeImage_objectBytes :
    takeImage (objectBytes (address :: BitVec.ofNat 16 ws.length :: ws)) = .ok (address, ws, []) := by
  have hn : (BitVec.ofNat 16 ws.length).toNat = ws.length := Nat.mod_eq_of_lt hlen
  simp only [takeImage, takeWord_objectBytes, hn, takeWords_objectBytes]
  rw [if_neg (Nat.not_lt.mpr hfit)]

/-- The bytes of a Code or Data record that fits are read to the end. -/
theorem takeRecord_objectBytes {tag : Word} (htag : tag = tagCode ∨ tag = tagData) :
    takeRecord (objectBytes (tag :: address :: BitVec.ofNat 16 ws.length :: ws)) =
      .ok (if tag = tagCode then .code address ws else .data address ws, []) := by
  have hne : tagData ≠ tagCode := by decide
  obtain rfl | rfl := htag <;>
    simp only [takeRecord, takeWord_objectBytes, takeImage_objectBytes hlen hfit, hne, if_true, if_false]

end

/-- Bytes that one record takes up are that record's load. -/
theorem load_of_takeRecord {bytes : List Byte} {r : ObjRecord} (h : takeRecord bytes = .ok (r, []))
    (s : State) : load bytes s = (applyRecord s r, none) := by
  cases bytes with
  | nil => cases h
  | cons b bs =>
    rw [load, List.length_cons, loadRecords, h]
    cases bs <;> rfl

/-- The load of a Code or Data record that fits is the writing of its words. -/
theorem load_objectBytes {tag address : Word} {ws : List Word}
    (htag : tag = tagCode ∨ tag = tagData) (hlen : ws.length < 65536)
    (hfit : address.toNat + ws.length ≤ 65536) (s : State) :
    load (objectBytes (tag :: address :: BitVec.ofNat 16 ws.length :: ws)) s =
      (loadWords s address ws, none) := by
  rw [load_of_takeRecord (takeRecord_objectBytes hlen hfit htag)]
  split <;> rfl

/-- Settles O58: the record is read to its end and its words are written one after another; the frame is that
of any load. -/
theorem loadedRecordFillsMemory : Obligations.LoadedRecordFillsMemory := by
  intro tag address ws s htag hlen hfit
  have hload := load_objectBytes htag hlen hfit s
  obtain ⟨hpc, hpsr, hregs, hcfg, -⟩ := loadingTouchesOnlyMemory
    (objectBytes (tag :: address :: BitVec.ofNat 16 ws.length :: ws)) s
  rw [hload] at hpc hpsr hregs hcfg
  refine ⟨loadWords s address ws, hload, loadWords_readWord ws s address (Nat.le_of_lt hlen),
    fun a ha => ?outside, hpc, hpsr, hregs, hcfg⟩
  case outside =>
    refine loadWords_readWord_of_ne ws s address fun i hi => ?_
    bv_omega

end Sys2Proof.Machine
end

section
/-! Reset (R290), and the run from it with nothing loaded (R293): a zero word is a NOP, which changes nothing
but pc. -/

namespace Sys2Proof.Machine

open Sys2Proof

/-! ### The reset state (R290) -/

@[simp] theorem Memory.readWord_nil (a : Word) : Memory.readWord [] a = 0x0000#16 := by
  rw [Memory.readWord, Memory.readByte_nil, Memory.readByte_nil]
  decide

theorem reset_reg (r : Reg) : State.reset.reg r = 0x0000#16 := by cases r <;> rfl

theorem reset_psr_word : State.reset.psr.word = 0x8004#16 := by decide

theorem hostReset_reg (s : State) (r : Reg) : (hostReset s).reg r = 0x0000#16 := reset_reg r

/-- The parameters of `State.reset` are its own, so the reset operation leaves it as it is. -/
theorem hostReset_reset : hostReset State.reset = State.reset := rfl

/-- Settles O40: both are a state that the reset operation leaves. -/
theorem resetStateIsTheSpecs : Obligations.ResetStateIsTheSpecs := by
  intro s t h
  obtain ⟨u, rfl⟩ : ∃ u, s = hostReset u :=
    h.elim (fun hs => ⟨State.reset, hs.trans hostReset_reset.symm⟩) (fun hs => ⟨t, hs⟩)
  exact ⟨rfl, rfl, rfl, rfl, rfl, reset_psr_word, hostReset_reg u, fun a => Memory.readWord_nil a⟩

/-! ### NOP steps (R142, R221) -/

section
variable {s : State} {off : Int}

/-- No flag meets the condition field 000 (R220), so a NOP advances. -/
theorem branchTaken_none (f : Nzp) : branchTaken { n := false, z := false, p := false } f = false :=
  rfl

theorem exec_nop_next (hpc : CodeAddress (s.pc + 1#16)) :
    exec (.nop off) s = .next { s with pc := s.pc + 1#16 } :=
  settle_next.mpr ⟨_, (branchEffects_notTaken_ok (branchTaken_none _)).mpr ⟨hpc, rfl⟩, rfl⟩

theorem exec_nop_fault (hpc : ¬ CodeAddress (s.pc + 1#16)) :
    exec (.nop off) s = .fault (.pcInReservedRange (s.pc + 1#16) s.pc) :=
  settle_fault.mpr ((branchEffects_notTaken_error (branchTaken_none _)).mpr ⟨hpc, rfl⟩)

end

theorem decode_zero : decode 0x0000#16 = .nop 0 := by decide

/-! ### The run with nothing loaded (R293) -/

/-- One step more is the step of the state that the run has come to. -/
theorem run_succ_of_run_next {M : Host.Core} {k : Nat} {s t : M.State} (h : M.run k s = .next t) :
    M.run (k + 1) s = M.step t := by
  induction k generalizing s with
  | zero =>
    obtain rfl : s = t := Host.Outcome.next.inj h
    rw [Host.Core.run]
    cases M.step s <;> rfl
  | succ k ih =>
    rw [Host.Core.run] at h ⊢
    cases hstep : M.step s with
    | next u =>
      rw [hstep] at h
      exact ih h
    | fault | refused =>
      rw [hstep] at h
      cases h

/-- The state of the run of R293 at `pc`. -/
def nothingLoadedAt (pc : Word) : State := { State.reset with pc := pc }

section
variable {pc : Word} (hpc : CodeAddress pc)
include hpc

theorem step_nothingLoadedAt : step (nothingLoadedAt pc) = exec (.nop 0) (nothingLoadedAt pc) :=
  step_eq_exec hpc (by rw [nothingLoadedAt, State.reset, Memory.readWord_nil, decode_zero])

theorem step_nothingLoadedAt_next (hnext : CodeAddress (pc + 1#16)) :
    step (nothingLoadedAt pc) = .next (nothingLoadedAt (pc + 1#16)) :=
  (step_nothingLoadedAt hpc).trans (exec_nop_next hnext)

theorem step_nothingLoadedAt_fault (hnext : ¬ CodeAddress (pc + 1#16)) :
    step (nothingLoadedAt pc) = .fault (.pcInReservedRange (pc + 1#16) pc) :=
  (step_nothingLoadedAt hpc).trans (exec_nop_fault hnext)

end

/-- The first 7679 steps stay in the code region of the OS (R64). -/
theorem run_reset {k : Nat} (hk : k ≤ 7679) :
    Sys2Proof.core.run k State.reset = .next (nothingLoadedAt (0x8200#16 + BitVec.ofNat 16 k)) := by
  induction k with
  | zero => rfl
  | succ k ih =>
    have hpc : CodeAddress (0x8200#16 + BitVec.ofNat 16 k) := .inr (by bv_omega)
    have hnext : CodeAddress (0x8200#16 + BitVec.ofNat 16 k + 1#16) := .inr (by bv_omega)
    rw [BitVec.ofNat_add, ← BitVec.add_assoc]
    exact (run_succ_of_run_next (ih (Nat.le_of_succ_le hk))).trans (step_nothingLoadedAt_next hpc hnext)

/-- Settles O57: NOP by NOP up to 0x9FFF, where the straight-line guard stops the advance to 0xA000. -/
theorem nothingLoadedRunsNopsToTheEnd : Obligations.NothingLoadedRunsNopsToTheEnd := by
  refine ⟨fun k => run_reset, ?stop, rfl⟩
  case stop =>
    exact (run_succ_of_run_next (run_reset (Nat.le_refl 7679))).trans
      (step_nothingLoadedAt_fault (pc := 0x9FFF#16) (by decide) (by decide))

end Sys2Proof.Machine
end
